-- ==== Sys2Proof/Word.lean ====
section
/-! DEFINITION. The word types of the 78K0R (`00_scope.md` R7, `10_state.md` R20): 8-bit bytes, 16-bit words and
20-bit addresses. Bit 0 is the least significant bit of each. -/

namespace Sys2Proof

/-- An 8-bit register or memory byte. -/
abbrev Byte := BitVec 8

/-- A 16-bit register pair or memory word. -/
abbrev Word := BitVec 16

/-- A 20-bit address: the width of PC and of the address space (`20_memory.md` R60). -/
abbrev Addr := BitVec 20

end Sys2Proof
end

