-- ==== Sys2Proof/Syntax.lean ====
section
/-! DEFINITION. The instruction set of the 78K0R as syntax (`30_encoding.md` R122, R131).

One constructor of `Instr` for each mnemonic and operand shape, that is for each rule that gives a meaning. The rows of
`opcode_table.json` that a rule lists together and that differ only in the addressing mode of one operand, in a register,
bit or count field, or in the ES prefix, are the values of that constructor's operands; which values an encoding admits
is `WellFormed.lean`'s subject. The alias rows (PSW, ES, CS, SP forms; `30_encoding.md` R113) are the words of the generic
constructor, but for EI and DI, which have mnemonics of their own (log 27). -/

namespace Sys2Proof

/-- The 8-bit general registers, numbered X = 0 to H = 7 (`30_encoding.md` R106). -/
inductive Reg8 where
  | x | a | c | b | e | d | l | h
  deriving DecidableEq, Repr

/-- The register pairs, numbered AX = 0 to HL = 3 (`30_encoding.md` R107). -/
inductive Reg16 where
  | ax | bc | de | hl
  deriving DecidableEq, Repr

/-- A data operand in memory (`40_mov8.md` R140). `es` says that the PREFIX byte precedes the instruction (`ES:`,
`30_encoding.md` R103, R104); the forms without it have no ES form (R105). -/
inductive MemOp where
  /-- `saddr` / `saddrp`: short direct, by the low byte of the address (R113, R116). -/
  | saddr (off : Byte)
  /-- `sfr` / `sfrp`: by the low byte of the SFR's address (R113, R117). -/
  | sfr (off : Byte)
  /-- `!addr16`, `ES:!addr16` (R111, R115). -/
  | abs (es : Bool) (addr : Word)
  /-- `[DE]`, `ES:[DE]` (R118). -/
  | de (es : Bool)
  /-- `[HL]`, `ES:[HL]` (R118). -/
  | hl (es : Bool)
  /-- `[DE+byte]`, `ES:[DE+byte]` (R119). -/
  | deOff (es : Bool) (off : Byte)
  /-- `[HL+byte]`, `ES:[HL+byte]` (R119). -/
  | hlOff (es : Bool) (off : Byte)
  /-- `[SP+byte]` (R119, `10_state.md` R34). -/
  | spOff (off : Byte)
  /-- `[HL+B]`, `ES:[HL+B]` (R120). -/
  | hlB (es : Bool)
  /-- `[HL+C]`, `ES:[HL+C]` (R120). -/
  | hlC (es : Bool)
  /-- `word[B]`, `ES:word[B]` (R119). -/
  | wordB (es : Bool) (base : Word)
  /-- `word[C]`, `ES:word[C]` (R119). -/
  | wordC (es : Bool) (base : Word)
  /-- `word[BC]`, `ES:word[BC]` (R119). -/
  | wordBC (es : Bool) (base : Word)
  deriving DecidableEq, Repr

/-- The operand forms the eight 8-bit operations share (`42_alu8.md` R200), and the one that only CMP has (R208). -/
inductive AluOp where
  /-- `A, #byte`. -/
  | aImm (data : Byte)
  /-- `saddr, #byte`. -/
  | saddrImm (off data : Byte)
  /-- `A, r` (r other than A). -/
  | aReg (r : Reg8)
  /-- `r, A` (all 8 registers). -/
  | regA (r : Reg8)
  /-- `A, mem`. -/
  | aMem (m : MemOp)
  /-- `!addr16, #byte`, `ES:!addr16, #byte` (CMP only). -/
  | absImm (es : Bool) (addr : Word) (data : Byte)
  deriving DecidableEq, Repr

/-- The source operand of ADDW, SUBW, CMPW, whose destination is AX (`43_alu16_mul.md` R230). -/
inductive AluWOp where
  | imm (data : Word)
  | reg (rp : Reg16)
  | mem (m : MemOp)
  deriving DecidableEq, Repr

/-- Where the byte of a bit operand lies (`45_bit.md` R270): the A register, or memory (PSW.bit is `sfr.bit` with the sfr
byte FAH). -/
inductive BitLoc where
  | a
  | mem (m : MemOp)
  deriving DecidableEq, Repr

/-- The instructions of the 78K0R. -/
inductive Instr where
  -- 8-bit data transfer
  /-- `MOV r, #byte` (R141). -/
  | movRI (r : Reg8) (data : Byte)
  /-- `MOV mem, #byte` (R142; R147 PSW, R148 ES, R149 CS). -/
  | movMI (m : MemOp) (data : Byte)
  /-- `MOV A, r` (R143). -/
  | movAR (r : Reg8)
  /-- `MOV r, A` (R144). -/
  | movRA (r : Reg8)
  /-- `MOV A, mem` (R145; R147 to R149). -/
  | movAM (m : MemOp)
  /-- `MOV mem, A` (R146; R147 to R149). -/
  | movMA (m : MemOp)
  /-- `MOV X/B/C, mem` (R150). -/
  | movRM (r : Reg8) (m : MemOp)
  /-- `MOV ES, #byte` (R148, opcode 41H). -/
  | movEsI (data : Byte)
  /-- `MOV ES, saddr` (R148). -/
  | movEsSaddr (off : Byte)
  /-- `XCH A, r` (R151). -/
  | xchAR (r : Reg8)
  /-- `XCH A, mem` (R152). -/
  | xchAM (m : MemOp)
  /-- `ONEB r` (R153). -/
  | onebR (r : Reg8)
  /-- `ONEB mem` (R153). -/
  | onebM (m : MemOp)
  /-- `CLRB r` (R154). -/
  | clrbR (r : Reg8)
  /-- `CLRB mem` (R154). -/
  | clrbM (m : MemOp)
  /-- `MOVS [HL+byte], X` (R155). -/
  | movs (es : Bool) (off : Byte)
  -- 16-bit data transfer
  /-- `MOVW rp, #word` (R181). -/
  | movwRI (rp : Reg16) (data : Word)
  /-- `MOVW saddrp/sfrp, #word` (R182; `MOVW SP, #word` R303). -/
  | movwMI (m : MemOp) (data : Word)
  /-- `MOVW AX, rp` (R183). -/
  | movwAxR (rp : Reg16)
  /-- `MOVW rp, AX` (R183). -/
  | movwRAx (rp : Reg16)
  /-- `MOVW AX, mem` (R184; `MOVW AX, SP` R304). -/
  | movwAxM (m : MemOp)
  /-- `MOVW mem, AX` (R185; `MOVW SP, AX` R303). -/
  | movwMAx (m : MemOp)
  /-- `MOVW BC/DE/HL, mem` (R186; `MOVW BC/DE/HL, SP` R305). -/
  | movwRM (rp : Reg16) (m : MemOp)
  /-- `XCHW AX, rp` (R187). -/
  | xchw (rp : Reg16)
  /-- `ONEW AX/BC` (R188). -/
  | onew (rp : Reg16)
  /-- `CLRW AX/BC` (R189). -/
  | clrw (rp : Reg16)
  -- 8-bit operation
  /-- `ADD` (R201). -/
  | add (o : AluOp)
  /-- `ADDC` (R202). -/
  | addc (o : AluOp)
  /-- `SUB` (R203). -/
  | sub (o : AluOp)
  /-- `SUBC` (R204). -/
  | subc (o : AluOp)
  /-- `AND` (R205). -/
  | and (o : AluOp)
  /-- `OR` (R206). -/
  | or (o : AluOp)
  /-- `XOR` (R207). -/
  | xor (o : AluOp)
  /-- `CMP` (R208). -/
  | cmp (o : AluOp)
  /-- `CMP0 r` (R209). -/
  | cmp0R (r : Reg8)
  /-- `CMP0 mem` (R209). -/
  | cmp0M (m : MemOp)
  /-- `CMPS X, [HL+byte]` (R210). -/
  | cmps (es : Bool) (off : Byte)
  -- 16-bit operation and multiply
  /-- `ADDW AX, src` (R231). -/
  | addw (o : AluWOp)
  /-- `SUBW AX, src` (R232). -/
  | subw (o : AluWOp)
  /-- `CMPW AX, src` (R233). -/
  | cmpw (o : AluWOp)
  /-- `ADDW SP, #byte` (R306). -/
  | addwSp (data : Byte)
  /-- `SUBW SP, #byte` (R307). -/
  | subwSp (data : Byte)
  /-- `MULU X` (R234). -/
  | mulu
  -- increment and decrement
  /-- `INC r` (R241). -/
  | incR (r : Reg8)
  /-- `INC mem` (R241). -/
  | incM (m : MemOp)
  /-- `DEC r` (R242). -/
  | decR (r : Reg8)
  /-- `DEC mem` (R242). -/
  | decM (m : MemOp)
  /-- `INCW rp` (R243). -/
  | incwR (rp : Reg16)
  /-- `INCW mem` (R243). -/
  | incwM (m : MemOp)
  /-- `DECW rp` (R244). -/
  | decwR (rp : Reg16)
  /-- `DECW mem` (R244). -/
  | decwM (m : MemOp)
  -- shift and rotate
  /-- `SHR A, cnt` (R245). -/
  | shr (cnt : BitVec 4)
  /-- `SHRW AX, cnt` (R246). -/
  | shrw (cnt : BitVec 4)
  /-- `SHL A/B/C, cnt` (R247). -/
  | shl (r : Reg8) (cnt : BitVec 4)
  /-- `SHLW AX/BC, cnt` (R248). -/
  | shlw (rp : Reg16) (cnt : BitVec 4)
  /-- `SAR A, cnt` (R249). -/
  | sar (cnt : BitVec 4)
  /-- `SARW AX, cnt` (R250). -/
  | sarw (cnt : BitVec 4)
  /-- `ROR A, 1` (R251). -/
  | ror
  /-- `ROL A, 1` (R252). -/
  | rol
  /-- `RORC A, 1` (R253). -/
  | rorc
  /-- `ROLC A, 1` (R254). -/
  | rolc
  /-- `ROLWC AX/BC, 1` (R255). -/
  | rolwc (rp : Reg16)
  -- bit manipulation
  /-- `MOV1 CY, src` (R271). -/
  | mov1Cy (loc : BitLoc) (bit : BitVec 3)
  /-- `MOV1 dst, CY` (R272). -/
  | mov1Bit (loc : BitLoc) (bit : BitVec 3)
  /-- `AND1 CY, src` (R273). -/
  | and1 (loc : BitLoc) (bit : BitVec 3)
  /-- `OR1 CY, src` (R274). -/
  | or1 (loc : BitLoc) (bit : BitVec 3)
  /-- `XOR1 CY, src` (R275). -/
  | xor1 (loc : BitLoc) (bit : BitVec 3)
  /-- `SET1 dst` (R276). -/
  | set1 (loc : BitLoc) (bit : BitVec 3)
  /-- `CLR1 dst` (R277). -/
  | clr1 (loc : BitLoc) (bit : BitVec 3)
  /-- `SET1 CY` (R278). -/
  | set1Cy
  /-- `CLR1 CY` (R279). -/
  | clr1Cy
  /-- `NOT1 CY` (R280). -/
  | not1Cy
  -- call, return, stack
  /-- `CALL rp` (R290). -/
  | callR (rp : Reg16)
  /-- `CALL $!addr20` (R291). -/
  | callRel (disp : Word)
  /-- `CALL !addr16` (R292). -/
  | callAbs16 (addr : Word)
  /-- `CALL !!addr20` (R293). -/
  | callAbs20 (addr : Addr)
  /-- `CALLT [addr5]`, addr5 = 0080H + 2k (R294). -/
  | callt (k : BitVec 5)
  /-- `BRK` (R295). -/
  | brk
  /-- `RET` (R296). -/
  | ret
  /-- `RETI` (R297). -/
  | reti
  /-- `RETB` (R298). -/
  | retb
  /-- `PUSH PSW` (R299). -/
  | pushPsw
  /-- `PUSH rp` (R300). -/
  | pushR (rp : Reg16)
  /-- `POP PSW` (R301). -/
  | popPsw
  /-- `POP rp` (R302). -/
  | popR (rp : Reg16)
  -- branches
  /-- `BR AX` (R320). -/
  | brAx
  /-- `BR $addr20` (R321). -/
  | brRel8 (disp : Byte)
  /-- `BR $!addr20` (R322). -/
  | brRel16 (disp : Word)
  /-- `BR !addr16` (R323). -/
  | brAbs16 (addr : Word)
  /-- `BR !!addr20` (R324). -/
  | brAbs20 (addr : Addr)
  /-- `BC $addr20` (R325). -/
  | bc (disp : Byte)
  /-- `BNC $addr20` (R326). -/
  | bnc (disp : Byte)
  /-- `BZ $addr20` (R327). -/
  | bz (disp : Byte)
  /-- `BNZ $addr20` (R328). -/
  | bnz (disp : Byte)
  /-- `BH $addr20` (R329). -/
  | bh (disp : Byte)
  /-- `BNH $addr20` (R330). -/
  | bnh (disp : Byte)
  /-- `BT bit, $addr20` (R331). -/
  | bt (loc : BitLoc) (bit : BitVec 3) (disp : Byte)
  /-- `BF bit, $addr20` (R332). -/
  | bf (loc : BitLoc) (bit : BitVec 3) (disp : Byte)
  /-- `BTCLR bit, $addr20` (R333). -/
  | btclr (loc : BitLoc) (bit : BitVec 3) (disp : Byte)
  -- skips
  /-- `SKC` (R335). -/
  | skc
  /-- `SKNC` (R336). -/
  | sknc
  /-- `SKZ` (R337). -/
  | skz
  /-- `SKNZ` (R338). -/
  | sknz
  /-- `SKH` (R339). -/
  | skh
  /-- `SKNH` (R340). -/
  | sknh
  -- CPU control
  /-- `SEL RBn` (R350). -/
  | sel (n : BitVec 2)
  /-- `NOP` (R351). -/
  | nop
  /-- `EI` (R352). -/
  | ei
  /-- `DI` (R353). -/
  | di
  /-- `HALT` (R354). -/
  | halt
  /-- `STOP` (R355). -/
  | stop
  /-- The row `PREFIX` of the table: the byte 11H followed by anything that no ES form matches (R131, R356), an unassigned
  encoding and no instruction of its own. -/
  | prefixAlone
  deriving DecidableEq, Repr

end Sys2Proof
end

