-- ==== Sys2Proof/WellFormed.lean ====
section
/-! DEFINITION. Which operands an encoding admits: the forms that the tables of the instruction files list
(`40_mov8.md` to `47_branch_skip.md`, `30_encoding.md` R105 to R108). A term that `Instr.wf` refuses has no encoding of its
own. -/

namespace Sys2Proof

/-- The classes of memory operand that the tables list forms by. -/
inductive MemClass where
  | saddr | sfr | abs | de | hl | deOff | hlOff | spOff | hlB | hlC | wordB | wordC | wordBC
  deriving DecidableEq, Repr

/-- The class of a memory operand, whether or not ES precedes it. -/
def MemOp.cls : MemOp → MemClass
  | .saddr _ => .saddr
  | .sfr _ => .sfr
  | .abs _ _ => .abs
  | .de _ => .de
  | .hl _ => .hl
  | .deOff _ _ => .deOff
  | .hlOff _ _ => .hlOff
  | .spOff _ => .spOff
  | .hlB _ => .hlB
  | .hlC _ => .hlC
  | .wordB _ _ => .wordB
  | .wordC _ _ => .wordC
  | .wordBC _ _ => .wordBC

/-- The operand is one of the listed classes. -/
def MemOp.isIn (m : MemOp) (cs : List MemClass) : Bool := cs.contains m.cls

/-- The four registers that ONEB, CLRB and CMP0 name (`40_mov8.md` R153). -/
def Reg8.isXACB (r : Reg8) : Bool := [Reg8.x, .a, .c, .b].contains r

/-- AX or BC: the pairs of ONEW, CLRW, SHLW, ROLWC. -/
def Reg16.isAxBc (rp : Reg16) : Bool := [Reg16.ax, .bc].contains rp

/-- `42_alu8.md` R200: no `A, A` under `A, r`; the memory sources are saddr, !addr16, [HL], [HL+byte], [HL+B], [HL+C]. -/
def AluOp.wf : AluOp → Bool
  | .aImm _ => true
  | .saddrImm _ _ => true
  | .aReg r => r != .a
  | .regA _ => true
  | .aMem m => m.isIn [.saddr, .abs, .hl, .hlOff, .hlB, .hlC]
  | .absImm _ _ _ => false

/-- `42_alu8.md` R208: CMP has the two `!addr16, #byte` forms as well. -/
def AluOp.wfCmp : AluOp → Bool
  | .absImm _ _ _ => true
  | o => o.wf

/-- `43_alu16_mul.md` R230: saddrp, !addr16 and [HL+byte]; `AX, AX` only for ADDW. -/
def AluWOp.wf (axAllowed : Bool) : AluWOp → Bool
  | .imm _ => true
  | .reg rp => axAllowed || rp != .ax
  | .mem m => m.isIn [.saddr, .abs, .hlOff]

/-- `44_incdec_shift_rot.md` R240: counts 1..7 for the 8-bit shifts. -/
def cntOk8 (cnt : BitVec 4) : Bool := decide (1 ≤ cnt.toNat) && decide (cnt.toNat ≤ 7)

/-- `44_incdec_shift_rot.md` R240: counts 1..15 for the 16-bit shifts. -/
def cntOk16 (cnt : BitVec 4) : Bool := decide (1 ≤ cnt.toNat)

/-- `45_bit.md` R271 to R273: the locations of the CY forms and of BT, BF, BTCLR. -/
def BitLoc.wf : BitLoc → Bool
  | .a => true
  | .mem m => m.isIn [.saddr, .sfr, .hl]

/-- `45_bit.md` R276, R277: SET1 and CLR1 have the !addr16 forms too; bit 7 of PSW is EI / DI (R352, R353). -/
def BitLoc.wfSetClr (bit : BitVec 3) : BitLoc → Bool
  | .a => true
  | .mem m => m.isIn [.saddr, .sfr, .hl, .abs] && !(decide (m = .sfr 0xFA) && decide (bit = 7))

/-- The operands are ones that an encoding of the instruction admits. -/
def Instr.wf : Instr → Bool
  | .movRI _ _ => true
  | .movMI m _ => m.isIn [.saddr, .sfr, .abs, .deOff, .hlOff, .wordB, .wordC, .wordBC, .spOff]
  | .movAR r => r != .a
  | .movRA r => r != .a
  | .movAM _ => true
  | .movMA _ => true
  | .movRM r m => [Reg8.x, .b, .c].contains r && m.isIn [.saddr, .abs]
  | .movEsI _ => true
  | .movEsSaddr _ => true
  | .xchAR r => r != .a
  | .xchAM m => m.isIn [.saddr, .sfr, .abs, .de, .deOff, .hl, .hlOff, .hlB, .hlC]
  | .onebR r => r.isXACB
  | .onebM m => m.isIn [.saddr, .abs]
  | .clrbR r => r.isXACB
  | .clrbM m => m.isIn [.saddr, .abs]
  | .movs _ _ => true
  | .movwRI _ _ => true
  | .movwMI m _ => m.isIn [.saddr, .sfr]
  | .movwAxR rp => rp != .ax
  | .movwRAx rp => rp != .ax
  | .movwAxM m => m.isIn [.saddr, .sfr, .abs, .de, .deOff, .hl, .hlOff, .wordB, .wordC, .wordBC, .spOff]
  | .movwMAx m => m.isIn [.saddr, .sfr, .abs, .de, .deOff, .hl, .hlOff, .wordB, .wordC, .wordBC, .spOff]
  | .movwRM rp m => rp != .ax && m.isIn [.saddr, .abs]
  | .xchw rp => rp != .ax
  | .onew rp => rp.isAxBc
  | .clrw rp => rp.isAxBc
  | .add o => o.wf
  | .addc o => o.wf
  | .sub o => o.wf
  | .subc o => o.wf
  | .and o => o.wf
  | .or o => o.wf
  | .xor o => o.wf
  | .cmp o => o.wfCmp
  | .cmp0R r => r.isXACB
  | .cmp0M m => m.isIn [.saddr, .abs]
  | .cmps _ _ => true
  | .addw o => o.wf true
  | .subw o => o.wf false
  | .cmpw o => o.wf false
  | .addwSp _ => true
  | .subwSp _ => true
  | .mulu => true
  | .incR _ => true
  | .incM m => m.isIn [.saddr, .abs, .hlOff]
  | .decR _ => true
  | .decM m => m.isIn [.saddr, .abs, .hlOff]
  | .incwR _ => true
  | .incwM m => m.isIn [.saddr, .abs, .hlOff]
  | .decwR _ => true
  | .decwM m => m.isIn [.saddr, .abs, .hlOff]
  | .shr cnt => cntOk8 cnt
  | .shrw cnt => cntOk16 cnt
  | .shl r cnt => [Reg8.a, .b, .c].contains r && cntOk8 cnt
  | .shlw rp cnt => rp.isAxBc && cntOk16 cnt
  | .sar cnt => cntOk8 cnt
  | .sarw cnt => cntOk16 cnt
  | .ror => true
  | .rol => true
  | .rorc => true
  | .rolc => true
  | .rolwc rp => rp.isAxBc
  | .mov1Cy loc _ => loc.wf
  | .mov1Bit loc _ => loc.wf
  | .and1 loc _ => loc.wf
  | .or1 loc _ => loc.wf
  | .xor1 loc _ => loc.wf
  | .set1 loc bit => loc.wfSetClr bit
  | .clr1 loc bit => loc.wfSetClr bit
  | .set1Cy => true
  | .clr1Cy => true
  | .not1Cy => true
  | .callR _ => true
  | .callRel _ => true
  | .callAbs16 _ => true
  | .callAbs20 _ => true
  | .callt _ => true
  | .brk => true
  | .ret => true
  | .reti => true
  | .retb => true
  | .pushPsw => true
  | .pushR _ => true
  | .popPsw => true
  | .popR _ => true
  | .brAx => true
  | .brRel8 _ => true
  | .brRel16 _ => true
  | .brAbs16 _ => true
  | .brAbs20 _ => true
  | .bc _ => true
  | .bnc _ => true
  | .bz _ => true
  | .bnz _ => true
  | .bh _ => true
  | .bnh _ => true
  | .bt loc _ _ => loc.wf
  | .bf loc _ _ => loc.wf
  | .btclr loc _ _ => loc.wf
  | .skc => true
  | .sknc => true
  | .skz => true
  | .sknz => true
  | .skh => true
  | .sknh => true
  | .sel _ => true
  | .nop => true
  | .ei => true
  | .di => true
  | .halt => true
  | .stop => true
  | .prefixAlone => false

end Sys2Proof
end

