-- ==== Sys2Proof/Decode.lean ====
section
/-! DEFINITION. Decoding and encoding (`30_encoding.md`). The decoder follows the four opcode maps of section 6 (R123 to
R126) cell by cell; the encoder is written apart from it, from the encoding tables of the instruction files. -/

namespace Sys2Proof

/-! ### Byte order (`20_memory.md` R74: little-endian) -/

/-- Bits 7-0 of a word. -/
def lo8 (w : Word) : Byte := w.extractLsb' 0 8

/-- Bits 15-8 of a word. -/
def hi8 (w : Word) : Byte := w.extractLsb' 8 8

/-- The word whose low byte is `lo` and whose high byte is `hi`. -/
def word (lo hi : Byte) : Word := hi ++ lo

/-- Bits 7-0, 15-8 and 19-16 of a 20-bit address (`PCL`, `PCH`, `PCS`, `10_state.md` R21); the last in bits 3-0 of a byte
whose bits 7-4 are 0 (R35). -/
def addrL (a : Addr) : Byte := a.extractLsb' 0 8
def addrH (a : Addr) : Byte := a.extractLsb' 8 8
def addrS (a : Addr) : Byte := (a.extractLsb' 16 4).zeroExtend 8

/-- The 20-bit address in three bytes; bits 7-4 of the third are ignored (R111, `10_state.md` R35). -/
def addrOf (l h s : Byte) : Addr := (s.extractLsb' 0 4) ++ h ++ l

/-! ### Encoding -/

/-- Register numbers (R106, R107). -/
def Reg8.code : Reg8 → Byte
  | .x => 0 | .a => 1 | .c => 2 | .b => 3 | .e => 4 | .d => 5 | .l => 6 | .h => 7

def Reg16.code : Reg16 → Byte
  | .ax => 0 | .bc => 1 | .de => 2 | .hl => 3

/-- PREFIX is written before the instruction when the operand is an ES form (R103). -/
def MemOp.es : MemOp → Bool
  | .saddr _ | .sfr _ | .spOff _ => false
  | .abs es _ | .de es | .hl es | .deOff es _ | .hlOff es _ | .hlB es | .hlC es
  | .wordB es _ | .wordC es _ | .wordBC es _ => es

/-- The PREFIX byte, or nothing. -/
def esByte (es : Bool) : List Byte := if es then [0x11] else []

/-- The operand bytes of a memory operand (R100, R110, R111, R113). -/
def MemOp.bytes : MemOp → List Byte
  | .saddr off | .sfr off | .spOff off | .deOff _ off | .hlOff _ off => [off]
  | .abs _ w | .wordB _ w | .wordC _ w | .wordBC _ w => [lo8 w, hi8 w]
  | .de _ | .hl _ | .hlB _ | .hlC _ => []

/-- A memory form: PREFIX if ES, the opcode bytes of the operand's class, the operand bytes. -/
def memForm (m : MemOp) (op : MemClass → List Byte) : List Byte :=
  esByte m.es ++ op m.cls ++ m.bytes

/-- A 16-bit operand, low byte first. -/
def wordBytes (w : Word) : List Byte := [lo8 w, hi8 w]

/-- `adrl adrh adrs`. -/
def addrBytes (a : Addr) : List Byte := [addrL a, addrH a, addrS a]

/-- Opcode bytes by operand class: R142, R145, R146, R152, R184, R185. -/
def opMovMI : MemClass → List Byte
  | .saddr => [0xCD] | .sfr => [0xCE] | .abs => [0xCF] | .deOff => [0xCA] | .hlOff => [0xCC]
  | .wordB => [0x19] | .wordC => [0x38] | .wordBC => [0x39] | .spOff => [0xC8]
  | .de => [] | .hl => [] | .hlB => [] | .hlC => []

def opMovAM : MemClass → List Byte
  | .saddr => [0x8D] | .sfr => [0x8E] | .abs => [0x8F] | .de => [0x89] | .deOff => [0x8A] | .hl => [0x8B]
  | .hlOff => [0x8C] | .hlB => [0x61, 0xC9] | .hlC => [0x61, 0xE9] | .wordB => [0x09] | .wordC => [0x29]
  | .wordBC => [0x49] | .spOff => [0x88]

def opMovMA : MemClass → List Byte
  | .saddr => [0x9D] | .sfr => [0x9E] | .abs => [0x9F] | .de => [0x99] | .deOff => [0x9A] | .hl => [0x9B]
  | .hlOff => [0x9C] | .hlB => [0x61, 0xD9] | .hlC => [0x61, 0xF9] | .wordB => [0x18] | .wordC => [0x28]
  | .wordBC => [0x48] | .spOff => [0x98]

def opXchAM : MemClass → List Byte
  | .saddr => [0x61, 0xA8] | .sfr => [0x61, 0xAB] | .abs => [0x61, 0xAA] | .de => [0x61, 0xAE]
  | .deOff => [0x61, 0xAF] | .hl => [0x61, 0xAC] | .hlOff => [0x61, 0xAD] | .hlB => [0x61, 0xB9] | .hlC => [0x61, 0xA9]
  | .wordB => [] | .wordC => [] | .wordBC => [] | .spOff => []

def opMovwAxM : MemClass → List Byte
  | .saddr => [0xAD] | .sfr => [0xAE] | .abs => [0xAF] | .de => [0xA9] | .deOff => [0xAA] | .hl => [0xAB]
  | .hlOff => [0xAC] | .wordB => [0x59] | .wordC => [0x69] | .wordBC => [0x79] | .spOff => [0xA8]
  | .hlB => [] | .hlC => []

def opMovwMAx : MemClass → List Byte
  | .saddr => [0xBD] | .sfr => [0xBE] | .abs => [0xBF] | .de => [0xB9] | .deOff => [0xBA] | .hl => [0xBB]
  | .hlOff => [0xBC] | .wordB => [0x58] | .wordC => [0x68] | .wordBC => [0x78] | .spOff => [0xB8]
  | .hlB => [] | .hlC => []

/-- The forms that have only saddr(p) and !addr16 (R150, R153, R154, R186, R209). -/
def opSaddrAbs (s a : Byte) : MemClass → List Byte
  | .saddr => [s] | .abs => [a]
  | .sfr | .de | .hl | .deOff | .hlOff | .spOff | .hlB | .hlC | .wordB | .wordC | .wordBC => []

/-- The forms that have saddr(p), !addr16 and [HL+byte] (R230, R241 to R244). -/
def opSaddrAbsHl (s a h : Byte) : MemClass → List Byte
  | .saddr => [s] | .abs => [a] | .hlOff => [0x61, h]
  | .sfr | .de | .hl | .deOff | .spOff | .hlB | .hlC | .wordB | .wordC | .wordBC => []

/-- `MOVW saddrp/sfrp, #word` (R182). -/
def opMovwMI : MemClass → List Byte
  | .saddr => [0xC9] | .sfr => [0xCB]
  | .abs | .de | .hl | .deOff | .hlOff | .spOff | .hlB | .hlC | .wordB | .wordC | .wordBC => []

/-- The sources of `op A, mem` with operation number `n` (R200). -/
def opAluMem (n : Byte) : MemClass → List Byte
  | .saddr => [n <<< 4 ||| 0x0B] | .abs => [n <<< 4 ||| 0x0F] | .hl => [n <<< 4 ||| 0x0D] | .hlOff => [n <<< 4 ||| 0x0E]
  | .hlB => [0x61, (n + 8) <<< 4] | .hlC => [0x61, (n + 8) <<< 4 ||| 0x02]
  | .sfr | .de | .deOff | .spOff | .wordB | .wordC | .wordBC => []

/-- The eight 8-bit operations, n = ADD 0, ADDC 1, SUB 2, SUBC 3, CMP 4, AND 5, OR 6, XOR 7 (R200); the !addr16,#byte
form is CMP's (R208). -/
def encAlu (n : Byte) : AluOp → List Byte
  | .aImm d => [n <<< 4 ||| 0x0C, d]
  | .saddrImm off d => [n <<< 4 ||| 0x0A, off, d]
  | .aReg r => [0x61, n <<< 4 ||| 0x08 ||| r.code]
  | .regA r => [0x61, n <<< 4 ||| r.code]
  | .aMem m => memForm m (opAluMem n)
  | .absImm es w d => esByte es ++ [0x40] ++ wordBytes w ++ [d]

/-- ADDW, SUBW, CMPW with high nibble `n` = 0, 2, 4 (R230). -/
def encAluW (n : Byte) : AluWOp → List Byte
  | .imm w => [n <<< 4 ||| 0x04] ++ wordBytes w
  | .reg rp => [n <<< 4 ||| 0x01 ||| rp.code <<< 1]
  | .mem m => memForm m (opSaddrAbsHl (n <<< 4 ||| 0x06) (n <<< 4 ||| 0x02) (n <<< 4 ||| 0x09))

/-- The byte `(hi << 4 | lo)` of the 3rd and 4th maps (R108). -/
def nib (hi lo : Byte) : Byte := hi <<< 4 ||| lo

/-- 3rd-map forms (R270 to R277): low nibble `s` for saddr and `f` for sfr with the bit number in the high nibble; for
[HL] (low nibble `s`) and A (low nibble `f`) the high nibble is 8 + bit; `w` for !addr16 (SET1, CLR1). -/
def encBit3 (s f w : Byte) (bit : BitVec 3) : BitLoc → List Byte
  | .a => [0x71, nib (8 + bit.zeroExtend 8) f]
  | .mem m => memForm m fun
    | .saddr => [0x71, nib (bit.zeroExtend 8) s]
    | .sfr => [0x71, nib (bit.zeroExtend 8) f]
    | .hl => [0x71, nib (8 + bit.zeroExtend 8) s]
    | .abs => [0x71, nib (bit.zeroExtend 8) w]
    | .de | .deOff | .hlOff | .spOff | .hlB | .hlC | .wordB | .wordC | .wordBC => []

/-- 4th-map bit branches (R331 to R333): low nibble `k` for saddr (bit) and sfr (8 + bit), `k + 1` for A (bit) and [HL]
(8 + bit). -/
def encBit4 (k : Byte) (bit : BitVec 3) (disp : Byte) : BitLoc → List Byte
  | .a => [0x31, nib (bit.zeroExtend 8) (k + 1), disp]
  | .mem m => (memForm m fun
    | .saddr => [0x31, nib (bit.zeroExtend 8) k]
    | .sfr => [0x31, nib (8 + bit.zeroExtend 8) k]
    | .hl => [0x31, nib (8 + bit.zeroExtend 8) (k + 1)]
    | .abs | .de | .deOff | .hlOff | .spOff | .hlB | .hlC | .wordB | .wordC | .wordBC => []) ++ [disp]

/-- 4th-map shifts: `31 (cnt << 4 | k)` (R126). -/
def encShift (k : Byte) (cnt : BitVec 4) : List Byte := [0x31, nib (cnt.zeroExtend 8) k]

/-- The second byte of CALLT: `1 k2 k1 k0 0 1 k4 k3` (R108, R294). -/
def calltByte (k : BitVec 5) : Byte := (1#1 ++ k.extractLsb' 0 3) ++ (1#2 ++ k.extractLsb' 3 2)

/-- The bytes of an instruction, in address order. -/
def encode : Instr → List Byte
  | .movRI r d => [0x50 + r.code, d]
  | .movMI m d => memForm m opMovMI ++ [d]
  | .movAR r => [0x60 + r.code]
  | .movRA r => [0x70 + r.code]
  | .movAM m => memForm m opMovAM
  | .movMA m => memForm m opMovMA
  | .movRM r m => memForm m (match r with
      | .b => opSaddrAbs 0xE8 0xE9
      | .c => opSaddrAbs 0xF8 0xF9
      | _ => opSaddrAbs 0xD8 0xD9)
  | .movEsI d => [0x41, d]
  | .movEsSaddr off => [0x61, 0xB8, off]
  | .xchAR r => match r with
      | .x => [0x08]
      | r => [0x61, 0x88 + r.code]
  | .xchAM m => memForm m opXchAM
  | .onebR r => [0xE0 + r.code]
  | .onebM m => memForm m (opSaddrAbs 0xE4 0xE5)
  | .clrbR r => [0xF0 + r.code]
  | .clrbM m => memForm m (opSaddrAbs 0xF4 0xF5)
  | .movs es off => esByte es ++ [0x61, 0xCE, off]
  | .movwRI rp w => [0x30 + rp.code <<< 1] ++ wordBytes w
  | .movwMI m w => memForm m opMovwMI ++ wordBytes w
  | .movwAxR rp => [0x11 + rp.code <<< 1]
  | .movwRAx rp => [0x10 + rp.code <<< 1]
  | .movwAxM m => memForm m opMovwAxM
  | .movwMAx m => memForm m opMovwMAx
  | .movwRM rp m => memForm m (match rp with
      | .de => opSaddrAbs 0xEA 0xEB
      | .hl => opSaddrAbs 0xFA 0xFB
      | _ => opSaddrAbs 0xDA 0xDB)
  | .xchw rp => [0x31 + rp.code <<< 1]
  | .onew rp => [0xE6 + rp.code]
  | .clrw rp => [0xF6 + rp.code]
  | .add o => encAlu 0 o
  | .addc o => encAlu 1 o
  | .sub o => encAlu 2 o
  | .subc o => encAlu 3 o
  | .and o => encAlu 5 o
  | .or o => encAlu 6 o
  | .xor o => encAlu 7 o
  | .cmp o => encAlu 4 o
  | .cmp0R r => [0xD0 + r.code]
  | .cmp0M m => memForm m (opSaddrAbs 0xD4 0xD5)
  | .cmps es off => esByte es ++ [0x61, 0xDE, off]
  | .addw o => encAluW 0 o
  | .subw o => encAluW 2 o
  | .cmpw o => encAluW 4 o
  | .addwSp d => [0x10, d]
  | .subwSp d => [0x20, d]
  | .mulu => [0xD6]
  | .incR r => [0x80 + r.code]
  | .incM m => memForm m (opSaddrAbsHl 0xA4 0xA0 0x59)
  | .decR r => [0x90 + r.code]
  | .decM m => memForm m (opSaddrAbsHl 0xB4 0xB0 0x69)
  | .incwR rp => [0xA1 + rp.code <<< 1]
  | .incwM m => memForm m (opSaddrAbsHl 0xA6 0xA2 0x79)
  | .decwR rp => [0xB1 + rp.code <<< 1]
  | .decwM m => memForm m (opSaddrAbsHl 0xB6 0xB2 0x89)
  | .shr cnt => encShift 0x0A cnt
  | .shrw cnt => encShift 0x0E cnt
  | .shl r cnt => encShift (match r with | .b => 0x08 | .c => 0x07 | _ => 0x09) cnt
  | .shlw rp cnt => encShift (match rp with | .bc => 0x0C | _ => 0x0D) cnt
  | .sar cnt => encShift 0x0B cnt
  | .sarw cnt => encShift 0x0F cnt
  | .ror => [0x61, 0xDB]
  | .rol => [0x61, 0xEB]
  | .rorc => [0x61, 0xFB]
  | .rolc => [0x61, 0xDC]
  | .rolwc rp => [0x61, match rp with | .bc => 0xFE | _ => 0xEE]
  | .mov1Cy loc bit => encBit3 0x04 0x0C 0x00 bit loc
  | .mov1Bit loc bit => encBit3 0x01 0x09 0x00 bit loc
  | .and1 loc bit => encBit3 0x05 0x0D 0x00 bit loc
  | .or1 loc bit => encBit3 0x06 0x0E 0x00 bit loc
  | .xor1 loc bit => encBit3 0x07 0x0F 0x00 bit loc
  | .set1 loc bit => encBit3 0x02 0x0A 0x00 bit loc
  | .clr1 loc bit => encBit3 0x03 0x0B 0x08 bit loc
  | .set1Cy => [0x71, 0x80]
  | .clr1Cy => [0x71, 0x88]
  | .not1Cy => [0x71, 0xC0]
  | .callR rp => [0x61, 0xCA + rp.code <<< 4]
  | .callRel w => [0xFE] ++ wordBytes w
  | .callAbs16 w => [0xFD] ++ wordBytes w
  | .callAbs20 a => [0xFC] ++ addrBytes a
  | .callt k => [0x61, calltByte k]
  | .brk => [0x61, 0xCC]
  | .ret => [0xD7]
  | .reti => [0x61, 0xFC]
  | .retb => [0x61, 0xEC]
  | .pushPsw => [0x61, 0xDD]
  | .pushR rp => [0xC1 + rp.code <<< 1]
  | .popPsw => [0x61, 0xCD]
  | .popR rp => [0xC0 + rp.code <<< 1]
  | .brAx => [0x61, 0xCB]
  | .brRel8 d => [0xEF, d]
  | .brRel16 w => [0xEE] ++ wordBytes w
  | .brAbs16 w => [0xED] ++ wordBytes w
  | .brAbs20 a => [0xEC] ++ addrBytes a
  | .bc d => [0xDC, d]
  | .bnc d => [0xDE, d]
  | .bz d => [0xDD, d]
  | .bnz d => [0xDF, d]
  | .bh d => [0x61, 0xC3, d]
  | .bnh d => [0x61, 0xD3, d]
  | .bt loc bit d => encBit4 0x02 bit d loc
  | .bf loc bit d => encBit4 0x04 bit d loc
  | .btclr loc bit d => encBit4 0x00 bit d loc
  | .skc => [0x61, 0xC8]
  | .sknc => [0x61, 0xD8]
  | .skz => [0x61, 0xE8]
  | .sknz => [0x61, 0xF8]
  | .skh => [0x61, 0xE3]
  | .sknh => [0x61, 0xF3]
  | .sel n => [0x61, 0xCF + n.zeroExtend 8 <<< 4]
  | .nop => [0x00]
  | .ei => [0x71, 0x7A, 0xFA]
  | .di => [0x71, 0x7B, 0xFA]
  | .halt => [0x61, 0xED]
  | .stop => [0x61, 0xFD]
  | .prefixAlone => [0x11]

/-- The length of an instruction in bytes, PREFIX byte included (R102). -/
def Instr.size (i : Instr) : Nat := (encode i).length

/-! ### Decoding -/

/-- Why bytes are no instruction (R127). -/
inductive DecodeError where
  /-- The bytes end before the instruction does: more bytes are needed. -/
  | truncated
  /-- An unassigned code of the 1st map (the first byte). -/
  | unassignedMap1 (op : Byte)
  /-- An unassigned code of the 2nd map (61 op). -/
  | unassignedMap2 (op : Byte)
  /-- An unassigned code of the 3rd map (71 op). -/
  | unassignedMap3 (op : Byte)
  /-- An unassigned code of the 4th map (31 op). -/
  | unassignedMap4 (op : Byte)
  deriving DecidableEq, Repr

/-- What a cell of a map holds: the operand bytes that follow the opcode (R100) and the instruction they make. -/
inductive Cell where
  /-- A blank cell. -/
  | blank
  /-- No operand byte. -/
  | op0 (i : Instr)
  /-- One operand byte. -/
  | opB (f : Byte → Instr)
  /-- `datal datah` or `adrl adrh`. -/
  | opW (f : Word → Instr)
  /-- Two single bytes. -/
  | opBB (f : Byte → Byte → Instr)
  /-- A byte, then `datal datah`. -/
  | opBW (f : Byte → Word → Instr)
  /-- `adrl adrh`, then a byte. -/
  | opWB (f : Word → Byte → Instr)
  /-- `adrl adrh adrs`. -/
  | opA (f : Addr → Instr)

/-- Reads a cell's operand bytes: the instruction and how many operand bytes it has. -/
def Cell.read (err : DecodeError) : Cell → List Byte → Except DecodeError (Instr × Nat)
  | .blank, _ => .error err
  | .op0 i, _ => .ok (i, 0)
  | .opB f, b :: _ => .ok (f b, 1)
  | .opW f, l :: h :: _ => .ok (f (word l h), 2)
  | .opBB f, a :: b :: _ => .ok (f a b, 2)
  | .opBW f, a :: l :: h :: _ => .ok (f a (word l h), 3)
  | .opWB f, l :: h :: b :: _ => .ok (f (word l h) b, 3)
  | .opA f, l :: h :: s :: _ => .ok (f (addrOf l h s), 3)
  | _, _ => .error .truncated

open Cell

/-- Columns A to F of rows 0-7 of the 1st map (R123). -/
def aluCells (mk : AluOp → Instr) : List Cell :=
  [opBB fun s d => mk (.saddrImm s d), opB fun s => mk (.aMem (.saddr s)), opB fun d => mk (.aImm d),
   op0 (mk (.aMem (.hl false))), opB fun o => mk (.aMem (.hlOff false o)), opW fun w => mk (.aMem (.abs false w))]

/-- The 1st map (R123), row by row. The cells 11 (PREFIX), 61, 71 and 31 (the other maps) are taken by `decode`. -/
def map1Row0 : List Cell :=
  [op0 .nop, op0 (.addw (.reg .ax)), opW fun w => .addw (.mem (.abs false w)), op0 (.addw (.reg .bc)),
   opW fun w => .addw (.imm w), op0 (.addw (.reg .de)), opB fun s => .addw (.mem (.saddr s)), op0 (.addw (.reg .hl)),
   op0 (.xchAR .x), opW fun w => .movAM (.wordB false w)] ++ aluCells .add

def map1Row1 : List Cell :=
  [opB .addwSp, blank, op0 (.movwRAx .bc), op0 (.movwAxR .bc), op0 (.movwRAx .de), op0 (.movwAxR .de),
   op0 (.movwRAx .hl), op0 (.movwAxR .hl), opW fun w => .movMA (.wordB false w),
   opWB fun w d => .movMI (.wordB false w) d] ++ aluCells .addc

def map1Row2 : List Cell :=
  [opB .subwSp, blank, opW fun w => .subw (.mem (.abs false w)), op0 (.subw (.reg .bc)), opW fun w => .subw (.imm w),
   op0 (.subw (.reg .de)), opB fun s => .subw (.mem (.saddr s)), op0 (.subw (.reg .hl)),
   opW fun w => .movMA (.wordC false w), opW fun w => .movAM (.wordC false w)] ++ aluCells .sub

def map1Row3 : List Cell :=
  [opW (.movwRI .ax), blank, opW (.movwRI .bc), op0 (.xchw .bc), opW (.movwRI .de), op0 (.xchw .de), opW (.movwRI .hl),
   op0 (.xchw .hl), opWB fun w d => .movMI (.wordC false w) d,
   opWB fun w d => .movMI (.wordBC false w) d] ++ aluCells .subc

def map1Row4 : List Cell :=
  [opWB fun w d => .cmp (.absImm false w d), opB .movEsI, opW fun w => .cmpw (.mem (.abs false w)),
   op0 (.cmpw (.reg .bc)), opW fun w => .cmpw (.imm w), op0 (.cmpw (.reg .de)), opB fun s => .cmpw (.mem (.saddr s)),
   op0 (.cmpw (.reg .hl)), opW fun w => .movMA (.wordBC false w),
   opW fun w => .movAM (.wordBC false w)] ++ aluCells .cmp

def map1Row5 : List Cell :=
  [opB (.movRI .x), opB (.movRI .a), opB (.movRI .c), opB (.movRI .b), opB (.movRI .e), opB (.movRI .d), opB (.movRI .l),
   opB (.movRI .h), opW fun w => .movwMAx (.wordB false w), opW fun w => .movwAxM (.wordB false w)] ++ aluCells .and

def map1Row6 : List Cell :=
  [op0 (.movAR .x), blank, op0 (.movAR .c), op0 (.movAR .b), op0 (.movAR .e), op0 (.movAR .d), op0 (.movAR .l),
   op0 (.movAR .h), opW fun w => .movwMAx (.wordC false w), opW fun w => .movwAxM (.wordC false w)] ++ aluCells .or

def map1Row7 : List Cell :=
  [op0 (.movRA .x), blank, op0 (.movRA .c), op0 (.movRA .b), op0 (.movRA .e), op0 (.movRA .d), op0 (.movRA .l),
   op0 (.movRA .h), opW fun w => .movwMAx (.wordBC false w), opW fun w => .movwAxM (.wordBC false w)] ++ aluCells .xor

def map1Row8 : List Cell :=
  [op0 (.incR .x), op0 (.incR .a), op0 (.incR .c), op0 (.incR .b), op0 (.incR .e), op0 (.incR .d), op0 (.incR .l),
   op0 (.incR .h), opB fun o => .movAM (.spOff o), op0 (.movAM (.de false)), opB fun o => .movAM (.deOff false o),
   op0 (.movAM (.hl false)), opB fun o => .movAM (.hlOff false o), opB fun s => .movAM (.saddr s),
   opB fun f => .movAM (.sfr f), opW fun w => .movAM (.abs false w)]

def map1Row9 : List Cell :=
  [op0 (.decR .x), op0 (.decR .a), op0 (.decR .c), op0 (.decR .b), op0 (.decR .e), op0 (.decR .d), op0 (.decR .l),
   op0 (.decR .h), opB fun o => .movMA (.spOff o), op0 (.movMA (.de false)), opB fun o => .movMA (.deOff false o),
   op0 (.movMA (.hl false)), opB fun o => .movMA (.hlOff false o), opB fun s => .movMA (.saddr s),
   opB fun f => .movMA (.sfr f), opW fun w => .movMA (.abs false w)]

def map1RowA : List Cell :=
  [opW fun w => .incM (.abs false w), op0 (.incwR .ax), opW fun w => .incwM (.abs false w), op0 (.incwR .bc),
   opB fun s => .incM (.saddr s), op0 (.incwR .de), opB fun s => .incwM (.saddr s), op0 (.incwR .hl),
   opB fun o => .movwAxM (.spOff o), op0 (.movwAxM (.de false)), opB fun o => .movwAxM (.deOff false o),
   op0 (.movwAxM (.hl false)), opB fun o => .movwAxM (.hlOff false o), opB fun s => .movwAxM (.saddr s),
   opB fun f => .movwAxM (.sfr f), opW fun w => .movwAxM (.abs false w)]

def map1RowB : List Cell :=
  [opW fun w => .decM (.abs false w), op0 (.decwR .ax), opW fun w => .decwM (.abs false w), op0 (.decwR .bc),
   opB fun s => .decM (.saddr s), op0 (.decwR .de), opB fun s => .decwM (.saddr s), op0 (.decwR .hl),
   opB fun o => .movwMAx (.spOff o), op0 (.movwMAx (.de false)), opB fun o => .movwMAx (.deOff false o),
   op0 (.movwMAx (.hl false)), opB fun o => .movwMAx (.hlOff false o), opB fun s => .movwMAx (.saddr s),
   opB fun f => .movwMAx (.sfr f), opW fun w => .movwMAx (.abs false w)]

def map1RowC : List Cell :=
  [op0 (.popR .ax), op0 (.pushR .ax), op0 (.popR .bc), op0 (.pushR .bc), op0 (.popR .de), op0 (.pushR .de),
   op0 (.popR .hl), op0 (.pushR .hl), opBB fun o d => .movMI (.spOff o) d, opBW fun s w => .movwMI (.saddr s) w,
   opBB fun o d => .movMI (.deOff false o) d, opBW fun f w => .movwMI (.sfr f) w,
   opBB fun o d => .movMI (.hlOff false o) d, opBB fun s d => .movMI (.saddr s) d, opBB fun f d => .movMI (.sfr f) d,
   opWB fun w d => .movMI (.abs false w) d]

def map1RowD : List Cell :=
  [op0 (.cmp0R .x), op0 (.cmp0R .a), op0 (.cmp0R .c), op0 (.cmp0R .b), opB fun s => .cmp0M (.saddr s),
   opW fun w => .cmp0M (.abs false w), op0 .mulu, op0 .ret, opB fun s => .movRM .x (.saddr s),
   opW fun w => .movRM .x (.abs false w), opB fun s => .movwRM .bc (.saddr s), opW fun w => .movwRM .bc (.abs false w),
   opB .bc, opB .bz, opB .bnc, opB .bnz]

def map1RowE : List Cell :=
  [op0 (.onebR .x), op0 (.onebR .a), op0 (.onebR .c), op0 (.onebR .b), opB fun s => .onebM (.saddr s),
   opW fun w => .onebM (.abs false w), op0 (.onew .ax), op0 (.onew .bc), opB fun s => .movRM .b (.saddr s),
   opW fun w => .movRM .b (.abs false w), opB fun s => .movwRM .de (.saddr s), opW fun w => .movwRM .de (.abs false w),
   opA .brAbs20, opW .brAbs16, opW .brRel16, opB .brRel8]

def map1RowF : List Cell :=
  [op0 (.clrbR .x), op0 (.clrbR .a), op0 (.clrbR .c), op0 (.clrbR .b), opB fun s => .clrbM (.saddr s),
   opW fun w => .clrbM (.abs false w), op0 (.clrw .ax), op0 (.clrw .bc), opB fun s => .movRM .c (.saddr s),
   opW fun w => .movRM .c (.abs false w), opB fun s => .movwRM .hl (.saddr s), opW fun w => .movwRM .hl (.abs false w),
   opA .callAbs20, opW .callAbs16, opW .callRel, blank]

def map1 : List (List Cell) :=
  [map1Row0, map1Row1, map1Row2, map1Row3, map1Row4, map1Row5, map1Row6, map1Row7,
   map1Row8, map1Row9, map1RowA, map1RowB, map1RowC, map1RowD, map1RowE, map1RowF]

/-- A row of rows 0-7 of the 2nd map (R124): `op r,A`, then `op A,X`, the cell of column 9, then `op A,C` to `op A,H`. -/
def aluRegRow (mk : AluOp → Instr) (col9 : Cell) : List Cell :=
  [op0 (mk (.regA .x)), op0 (mk (.regA .a)), op0 (mk (.regA .c)), op0 (mk (.regA .b)), op0 (mk (.regA .e)),
   op0 (mk (.regA .d)), op0 (mk (.regA .l)), op0 (mk (.regA .h)), op0 (mk (.aReg .x)), col9, op0 (mk (.aReg .c)),
   op0 (mk (.aReg .b)), op0 (mk (.aReg .e)), op0 (mk (.aReg .d)), op0 (mk (.aReg .l)), op0 (mk (.aReg .h))]

/-- Columns 0 to 7 of rows 8-F of the 2nd map: `op A,[HL+B]`, blank, `op A,[HL+C]`, the cell of column 3, and CALLT with
k = hi - 8 + 8 * (column - 4) (R108). -/
def aluIdxCells (mk : AluOp → Instr) (col3 : Cell) (k : BitVec 5) : List Cell :=
  [op0 (mk (.aMem (.hlB false))), blank, op0 (mk (.aMem (.hlC false))), col3,
   op0 (.callt k), op0 (.callt (k + 8)), op0 (.callt (k + 16)), op0 (.callt (k + 24))]

/-- The 2nd map (R124), row by row. -/
def map2Row8 : List Cell := aluIdxCells .add blank 0 ++
  [blank, opB fun o => .decwM (.hlOff false o), op0 (.xchAR .c), op0 (.xchAR .b), op0 (.xchAR .e), op0 (.xchAR .d),
   op0 (.xchAR .l), op0 (.xchAR .h)]

def map2Row9 : List Cell := aluIdxCells .addc blank 1 ++
  [blank, blank, blank, blank, blank, blank, blank, blank]

def map2RowA : List Cell := aluIdxCells .sub blank 2 ++
  [opB fun s => .xchAM (.saddr s), op0 (.xchAM (.hlC false)), opW fun w => .xchAM (.abs false w),
   opB fun f => .xchAM (.sfr f), op0 (.xchAM (.hl false)), opB fun o => .xchAM (.hlOff false o), op0 (.xchAM (.de false)),
   opB fun o => .xchAM (.deOff false o)]

def map2RowB : List Cell := aluIdxCells .subc blank 3 ++
  [opB .movEsSaddr, op0 (.xchAM (.hlB false)), blank, blank, blank, blank, blank, blank]

def map2RowC : List Cell := aluIdxCells .cmp (opB .bh) 4 ++
  [op0 .skc, op0 (.movAM (.hlB false)), op0 (.callR .ax), op0 .brAx, op0 .brk, op0 .popPsw, opB (.movs false),
   op0 (.sel 0)]

def map2RowD : List Cell := aluIdxCells .and (opB .bnh) 5 ++
  [op0 .sknc, op0 (.movMA (.hlB false)), op0 (.callR .bc), op0 .ror, op0 .rolc, op0 .pushPsw, opB (.cmps false),
   op0 (.sel 1)]

def map2RowE : List Cell := aluIdxCells .or (op0 .skh) 6 ++
  [op0 .skz, op0 (.movAM (.hlC false)), op0 (.callR .de), op0 .rol, op0 .retb, op0 .halt, op0 (.rolwc .ax), op0 (.sel 2)]

def map2RowF : List Cell := aluIdxCells .xor (op0 .sknh) 7 ++
  [op0 .sknz, op0 (.movMA (.hlC false)), op0 (.callR .hl), op0 .rorc, op0 .reti, op0 .stop, op0 (.rolwc .bc), op0 (.sel 3)]

def map2 : List (List Cell) :=
  [aluRegRow .add (opB fun o => .addw (.mem (.hlOff false o))), aluRegRow .addc blank,
   aluRegRow .sub (opB fun o => .subw (.mem (.hlOff false o))), aluRegRow .subc blank,
   aluRegRow .cmp (opB fun o => .cmpw (.mem (.hlOff false o))), aluRegRow .and (opB fun o => .incM (.hlOff false o)),
   aluRegRow .or (opB fun o => .decM (.hlOff false o)), aluRegRow .xor (opB fun o => .incwM (.hlOff false o)),
   map2Row8, map2Row9, map2RowA, map2RowB, map2RowC, map2RowD, map2RowE, map2RowF]

/-- The 3rd map (R125) where bit 7 of the second byte is 0: `bit` is the high nibble. 71 7A FA is EI and 71 7B FA is DI. -/
def map3Low (bit : BitVec 3) : List Cell :=
  [opW fun w => .set1 (.mem (.abs false w)) bit,
   opB fun s => .mov1Bit (.mem (.saddr s)) bit,
   opB fun s => .set1 (.mem (.saddr s)) bit,
   opB fun s => .clr1 (.mem (.saddr s)) bit,
   opB fun s => .mov1Cy (.mem (.saddr s)) bit,
   opB fun s => .and1 (.mem (.saddr s)) bit,
   opB fun s => .or1 (.mem (.saddr s)) bit,
   opB fun s => .xor1 (.mem (.saddr s)) bit,
   opW fun w => .clr1 (.mem (.abs false w)) bit,
   opB fun f => .mov1Bit (.mem (.sfr f)) bit,
   opB fun f => if bit = 7 ∧ f = 0xFA then .ei else .set1 (.mem (.sfr f)) bit,
   opB fun f => if bit = 7 ∧ f = 0xFA then .di else .clr1 (.mem (.sfr f)) bit,
   opB fun f => .mov1Cy (.mem (.sfr f)) bit,
   opB fun f => .and1 (.mem (.sfr f)) bit,
   opB fun f => .or1 (.mem (.sfr f)) bit,
   opB fun f => .xor1 (.mem (.sfr f)) bit]

/-- The 3rd map where bit 7 is 1: `bit` is the high nibble less 8; 80 SET1 CY, 88 CLR1 CY, C0 NOT1 CY. -/
def map3High (bit : BitVec 3) : List Cell :=
  [if bit = 0 then op0 .set1Cy else if bit = 4 then op0 .not1Cy else blank,
   op0 (.mov1Bit (.mem (.hl false)) bit),
   op0 (.set1 (.mem (.hl false)) bit),
   op0 (.clr1 (.mem (.hl false)) bit),
   op0 (.mov1Cy (.mem (.hl false)) bit),
   op0 (.and1 (.mem (.hl false)) bit),
   op0 (.or1 (.mem (.hl false)) bit),
   op0 (.xor1 (.mem (.hl false)) bit),
   if bit = 0 then op0 .clr1Cy else blank,
   op0 (.mov1Bit .a bit),
   op0 (.set1 .a bit),
   op0 (.clr1 .a bit),
   op0 (.mov1Cy .a bit),
   op0 (.and1 .a bit),
   op0 (.or1 .a bit),
   op0 (.xor1 .a bit)]

/-- A shift cell that is blank for the counts it does not have (R126). -/
def shiftCell (ok : Bool) (i : Instr) : Cell := if ok then op0 i else blank

/-- The 4th map (R126): the high nibble is the bit number of saddr and A forms, 8 + bit of sfr and [HL] forms, and the
count of the shifts. -/
def map4 (hi : BitVec 4) : List Cell :=
  let bit : BitVec 3 := hi.extractLsb' 0 3
  let upper : Bool := hi.getLsbD 3
  let direct (mk : BitLoc → BitVec 3 → Byte → Instr) : Cell :=
    if upper then opBB fun f d => mk (.mem (.sfr f)) bit d else opBB fun s d => mk (.mem (.saddr s)) bit d
  let indirect (mk : BitLoc → BitVec 3 → Byte → Instr) : Cell :=
    if upper then opB fun d => mk (.mem (.hl false)) bit d else opB fun d => mk .a bit d
  [direct .btclr, indirect .btclr, direct .bt, indirect .bt, direct .bf, indirect .bf, blank,
   shiftCell (cntOk8 hi) (.shl .c hi), shiftCell (cntOk8 hi) (.shl .b hi), shiftCell (cntOk8 hi) (.shl .a hi),
   shiftCell (cntOk8 hi) (.shr hi), shiftCell (cntOk8 hi) (.sar hi),
   shiftCell (cntOk16 hi) (.shlw .bc hi), shiftCell (cntOk16 hi) (.shlw .ax hi), shiftCell (cntOk16 hi) (.shrw hi),
   shiftCell (cntOk16 hi) (.sarw hi)]

/-- The n-th cell of a row. -/
def cellAt (row : List Cell) (n : Nat) : Cell := row.getD n blank

/-- The cell of a byte in a map of 16 rows. -/
def gridCell (g : List (List Cell)) (b : Byte) : Cell := cellAt (g.getD (b.toNat / 16) []) (b.toNat % 16)

/-- The cell of the second byte in the 3rd map. -/
def map3Cell (b : Byte) : Cell :=
  let bit : BitVec 3 := b.extractLsb' 4 3
  cellAt (if b.getLsbD 7 then map3High bit else map3Low bit) (b.toNat % 16)

/-- The cell of the second byte in the 4th map. -/
def map4Cell (b : Byte) : Cell := cellAt (map4 (b.extractLsb' 4 4)) (b.toNat % 16)

/-- `k` opcode bytes come before the operand bytes. -/
def addLen (k : Nat) : Except DecodeError (Instr × Nat) → Except DecodeError (Instr × Nat)
  | .ok (i, n) => .ok (i, n + k)
  | .error e => .error e

/-- Decodes an instruction without PREFIX: the instruction and its length (R101: 61H, 71H and 31H select the other
maps). -/
def decodePlain : List Byte → Except DecodeError (Instr × Nat)
  | [] => .error .truncated
  | b :: bs =>
    if b = 0x61 then
      match bs with
      | [] => .error .truncated
      | c :: cs => addLen 2 ((gridCell map2 c).read (.unassignedMap2 c) cs)
    else if b = 0x71 then
      match bs with
      | [] => .error .truncated
      | c :: cs => addLen 2 ((map3Cell c).read (.unassignedMap3 c) cs)
    else if b = 0x31 then
      match bs with
      | [] => .error .truncated
      | c :: cs => addLen 2 ((map4Cell c).read (.unassignedMap4 c) cs)
    else addLen 1 ((gridCell map1 b).read (.unassignedMap1 b) bs)

/-- The memory operand with ES before it, where it has such a form (R105: none for saddr, sfr and [SP+byte]). -/
def MemOp.withEs : MemOp → Option MemOp
  | .saddr _ => none
  | .sfr _ => none
  | .spOff _ => none
  | .abs _ w => some (.abs true w)
  | .de _ => some (.de true)
  | .hl _ => some (.hl true)
  | .deOff _ o => some (.deOff true o)
  | .hlOff _ o => some (.hlOff true o)
  | .hlB _ => some (.hlB true)
  | .hlC _ => some (.hlC true)
  | .wordB _ w => some (.wordB true w)
  | .wordC _ w => some (.wordC true w)
  | .wordBC _ w => some (.wordBC true w)

def AluOp.withEs : AluOp → Option AluOp
  | .aMem m => m.withEs.map .aMem
  | .absImm _ w d => some (.absImm true w d)
  | .aImm _ => none
  | .saddrImm _ _ => none
  | .aReg _ => none
  | .regA _ => none

def AluWOp.withEs : AluWOp → Option AluWOp
  | .mem m => m.withEs.map .mem
  | .imm _ => none
  | .reg _ => none

def BitLoc.withEs : BitLoc → Option BitLoc
  | .mem m => m.withEs.map .mem
  | .a => none

/-- The ES form of an instruction (R103, R105): the same instruction with its memory operand extended by ES; none for an
instruction that has no such operand. -/
def Instr.withEs : Instr → Option Instr
  | .movMI m d => m.withEs.map (.movMI · d)
  | .movAM m => m.withEs.map .movAM
  | .movMA m => m.withEs.map .movMA
  | .movRM r m => m.withEs.map (.movRM r)
  | .xchAM m => m.withEs.map .xchAM
  | .onebM m => m.withEs.map .onebM
  | .clrbM m => m.withEs.map .clrbM
  | .movs _ o => some (.movs true o)
  | .movwAxM m => m.withEs.map .movwAxM
  | .movwMAx m => m.withEs.map .movwMAx
  | .movwRM rp m => m.withEs.map (.movwRM rp)
  | .add o => o.withEs.map .add
  | .addc o => o.withEs.map .addc
  | .sub o => o.withEs.map .sub
  | .subc o => o.withEs.map .subc
  | .and o => o.withEs.map .and
  | .or o => o.withEs.map .or
  | .xor o => o.withEs.map .xor
  | .cmp o => o.withEs.map .cmp
  | .cmp0M m => m.withEs.map .cmp0M
  | .cmps _ o => some (.cmps true o)
  | .addw o => o.withEs.map .addw
  | .subw o => o.withEs.map .subw
  | .cmpw o => o.withEs.map .cmpw
  | .incM m => m.withEs.map .incM
  | .decM m => m.withEs.map .decM
  | .incwM m => m.withEs.map .incwM
  | .decwM m => m.withEs.map .decwM
  | .mov1Cy l b => l.withEs.map (.mov1Cy · b)
  | .mov1Bit l b => l.withEs.map (.mov1Bit · b)
  | .and1 l b => l.withEs.map (.and1 · b)
  | .or1 l b => l.withEs.map (.or1 · b)
  | .xor1 l b => l.withEs.map (.xor1 · b)
  | .set1 l b => l.withEs.map (.set1 · b)
  | .clr1 l b => l.withEs.map (.clr1 · b)
  | .bt l b d => l.withEs.map (.bt · b d)
  | .bf l b d => l.withEs.map (.bf · b d)
  | .btclr l b d => l.withEs.map (.btclr · b d)
  | .movwMI _ _ => none
  | .movRI _ _ | .movAR _ | .movRA _ | .movEsI _ | .movEsSaddr _ | .xchAR _ | .onebR _ | .clrbR _ => none
  | .movwRI _ _ | .movwAxR _ | .movwRAx _ | .xchw _ | .onew _ | .clrw _ | .cmp0R _ => none
  | .addwSp _ | .subwSp _ | .mulu | .incR _ | .decR _ | .incwR _ | .decwR _ => none
  | .shr _ | .shrw _ | .shl _ _ | .shlw _ _ | .sar _ | .sarw _ | .ror | .rol | .rorc | .rolc | .rolwc _ => none
  | .set1Cy | .clr1Cy | .not1Cy | .callR _ | .callRel _ | .callAbs16 _ | .callAbs20 _ | .callt _ | .brk => none
  | .ret | .reti | .retb | .pushPsw | .pushR _ | .popPsw | .popR _ | .brAx | .brRel8 _ | .brRel16 _ => none
  | .brAbs16 _ | .brAbs20 _ | .bc _ | .bnc _ | .bz _ | .bnz _ | .bh _ | .bnh _ => none
  | .skc | .sknc | .skz | .sknz | .skh | .sknh | .sel _ | .nop | .ei | .di | .halt | .stop | .prefixAlone => none

/-- What the opcode bytes at the head stand for, with every operand byte behind them read as 0; none where an opcode byte is
missing or unassigned. Whether an instruction has an ES form depends on its opcode alone (R105). -/
def opcodeInstr (bs : List Byte) : Option Instr :=
  match bs with
  | [] => none
  | [b] => if b = 0x61 ∨ b = 0x71 ∨ b = 0x31 then none else (decodePlain [b, 0, 0, 0]).toOption.map (·.1)
  | b :: c :: _ => (decodePlain [b, c, 0, 0, 0]).toOption.map (·.1)

/-- The opcode bytes at the head are those of an instruction without an ES form. -/
def opcodeWithoutEs (bs : List Byte) : Bool :=
  match opcodeInstr bs with
  | some i => decide (i.withEs = none)
  | none => false

/-- Decodes the instruction at the head of a list of bytes: the instruction and its length, PREFIX included, or why there
is none. 11H followed by bytes that no ES form matches is the row PREFIX of the table (R131, R356), also where operand bytes
behind an opcode without an ES form are missing; where an opcode byte itself is missing, what follows 11H is not known and
the answer is `truncated` (log 13). -/
def decode : List Byte → Except DecodeError (Instr × Nat)
  | [] => .error .truncated
  | b :: bs =>
    if b = 0x11 then
      match decodePlain bs with
      | .ok (i, n) =>
        match i.withEs with
        | some j => .ok (j, n + 1)
        | none => .ok (.prefixAlone, 1)
      | .error .truncated => if opcodeWithoutEs bs then .ok (.prefixAlone, 1) else .error .truncated
      | .error _ => .ok (.prefixAlone, 1)
    else decodePlain (b :: bs)

/-- The `n` bytes of a number, the least significant first. -/
def bytesOfNat : Nat → Nat → List Byte
  | 0, _ => []
  | n + 1, w => BitVec.ofNat 8 w :: bytesOfNat n (w / 256)

/-- The five bytes (the longest instruction, R100) of an instruction whose first `nbits` bits are `w`, the others 0. -/
def tableBytes (nbits w : Nat) : List Byte := bytesOfNat 5 (w % 2 ^ nbits)

/-- The instruction the decoder reads from a word numbered as `opcode_table.json` numbers it. -/
def decodeTableWord (nbits w : Nat) : Option Instr :=
  match decode (tableBytes nbits w) with
  | .ok (i, _) => some i
  | .error _ => none

end Sys2Proof
end

