-- ==== Sys2Proof/Config.lean ====
section
/-! DEFINITION. What an implementation fixes (`00_scope.md` R6) and the values the manual leaves free. -/

namespace Sys2Proof

/-- The kinds of interrupt request (`60_exceptions.md` R364, R365). -/
inductive RequestKind where
  | maskable | nonmaskable
  deriving DecidableEq, Repr

/-- An interrupt source of the product: its kind, and `VECTOR(src)`, the address of its word in the vector table. -/
structure Source where
  kind : RequestKind
  vector : Nat
  deriving DecidableEq, Repr

/-- The implementation parameters of `00_scope.md` R6, as plain data: "A model takes them as arguments". Every statement
about a machine holds for every `Product` (log 5). -/
structure Product where
  /-- `FLASH_TOP`: last address of internal program memory. -/
  flashTop : Nat
  /-- `RAM_BASE`: lowest address of internal RAM. -/
  ramBase : Nat
  /-- `HAS_EXTMEM`: external memory occupies `FLASH_TOP`+1..EDFFFH. -/
  hasExtMem : Bool
  /-- Whether the external device takes writes (`20_memory.md` R72: "Whether it is writable depends on the external
  device (host)"; log 18). -/
  extWritable : Bool
  /-- `MIRROR_LO`: first address of the mirror window. -/
  mirrorLo : Nat
  /-- `MIRROR_HI`: last address of the mirror window. -/
  mirrorHi : Nat
  /-- `SFR2_TOP`: last implemented 2nd-SFR address. -/
  sfr2Top : Nat
  /-- `HAS_ISP1`: PSW bit 2 is the ISP1 flag (4 interrupt priority levels). -/
  hasIsp1 : Bool
  /-- The interrupt sources with `VECTOR(src)`, in the product's numbering (at most 61; log 38). -/
  sources : List Source
  /-- `VECTOR` of the on-chip-debug vector, which no instruction and no request uses (`60_exceptions.md` R385). -/
  debugVectorAddr : Nat
  /-- `RESET_VECTOR_ADDR`: address of the RESET vector. -/
  resetVectorAddr : Nat
  /-- `isp_on_accept(level)`: the value ISP takes on acceptance (`60_exceptions.md` R368), indexed by the level. -/
  ispOnAccept : Vector (BitVec 2) 4
  /-- `WAKE_ON_MASKED_IE0`: an unmasked maskable request ends HALT / STOP while IE = 0 (`60_exceptions.md` R384). -/
  wakeOnMaskedIE0 : Bool
  /-- `FETCH_WINDOW`: bytes after an instruction that may already sit in the instruction queue (`20_memory.md` R88). -/
  fetchWindow : Nat
  deriving DecidableEq, Repr

/-- `N_INT`: the number of maskable interrupt sources. -/
def Product.nInt (p : Product) : Nat := p.sources.countP fun c => decide (c.kind = .maskable)

namespace Config

/-- The sources of product T: the 61 words 00004H to 0007CH of the vector table, of which the vectors of
`95_test_vectors.md` use 00004H for a non-maskable request and others for maskable ones (log 38). -/
def sourcesT : List Source :=
  (List.range 61).map fun k => { kind := if k = 0 then .nonmaskable else .maskable, vector := 4 + 2 * k }

/-- Product T of `95_test_vectors.md` section 0: the manual's second example map (flash 512 KB, RAM 30 KB). The values the
spec takes from general knowledge (`resetVectorAddr`, `ispOnAccept`, `wakeOnMaskedIE0`) are PRESUMED, `extWritable` (no
external memory is there to write), `sources` and `debugVectorAddr` are DESIGN CHOICES (log 5, log 9, log 11, log 12, log 38). -/
def productT : Product where
  flashTop := 0x7FFFF
  ramBase := 0xF8700
  hasExtMem := false
  extWritable := false
  mirrorLo := 0xF1000
  mirrorHi := 0xF86FF
  sfr2Top := 0xF07FF
  hasIsp1 := true
  sources := sourcesT
  debugVectorAddr := 0x00002
  resetVectorAddr := 0x00000
  ispOnAccept := #v[0, 0, 1, 2]
  wakeOnMaskedIE0 := true
  fetchWindow := 16

/-- `any_1()` of `00_scope.md` R11: the n-th unconstrained bit the machine draws (`92_eei_decisions.md` D23). It has no
body that a proof could use: a statement that holds of it holds whatever the bits are (log 6). -/
opaque freeBit : Nat → Bool

end Config

/-- The limits the manual sets on the parameters (`00_scope.md` R6): flash at most 512 KB from 00000H, RAM at most
61.75 KB ending at FFEFFH, 2nd SFR at most 2 KB from F0000H, the mirror window between them, the RESET vector an even
address in 00000H-0007FH, at most 61 interrupt sources, each with an even vector address in 00000H-0007DH that is neither the
RESET vector's nor the on-chip-debug vector's (`60_exceptions.md` R364, R365). -/
def Product.ok (p : Product) : Bool :=
  decide (0xBF ≤ p.flashTop) && decide (p.flashTop ≤ 0x7FFFF) && decide (0xF0900 ≤ p.ramBase) &&
  decide (p.ramBase ≤ 0xFFEE0) && decide (0xF0800 ≤ p.mirrorLo) && decide (p.mirrorHi < p.ramBase) &&
  decide (p.sfr2Top ≤ 0xF07FF) && decide (p.resetVectorAddr ≤ 0x7E) && decide (p.resetVectorAddr % 2 = 0) &&
  decide (p.sources.length ≤ 61) &&
  p.sources.all fun c => decide (c.vector ≤ 0x7D) && decide (c.vector % 2 = 0) &&
    decide (c.vector ≠ p.resetVectorAddr) && decide (c.vector ≠ p.debugVectorAddr)

end Sys2Proof
end

