-- ==== Sys2Proof/Machine/State.lean ====
section
/-! DEFINITION. The state of the machine as plain data (`10_state.md` R20), the ways a step can stop (`60_exceptions.md`
R360), and the machine right after reset (`10_state.md` R52). -/

namespace Sys2Proof.Machine

/-- The closed list of faults of `60_exceptions.md` R360. Each marks a place where the manual prohibits a usage or says
nothing; a fault commits nothing and is terminal. All are safe: the model stops where the hardware does something the
manual does not give. -/
inductive Fault where
  /-- Raised by the fetch, by a taken skip and by the row PREFIX: the bytes are no assigned encoding (`30_encoding.md`
  R127, `47_branch_skip.md` R334, `48_cpu_control.md` R356). Safe. -/
  | illegalEncoding
  /-- Raised by a read or fetch of a byte of memory that nothing has placed or written, and by a read of FFFFBH
  (`10_state.md` R38, R43, `70_reset_and_hazards.md` R404). Safe. -/
  | undefinedRead
  /-- Raised by a write to FFFFBH (`10_state.md` R43). Safe. -/
  | reservedWrite
  /-- Raised by a stack access any byte of which lies outside `RAM_BASE`..FFEDFH (`10_state.md` R34). Safe. -/
  | stackOutsideRam
  /-- Raised by a second write to PMC after reset (`10_state.md` R44). Safe. -/
  | pmcRewrite
  /-- Raised by a data read through the mirror by the instruction right after a PMC write (`10_state.md` R48). Safe. -/
  | mirrorTooEarly
  /-- Raised by a data write that resolves to flash or to the mirror (`20_memory.md` R62, R64). Safe. -/
  | writeToReadOnly
  /-- Raised by a data access to an address in no region (`20_memory.md` R67, R73). Safe. -/
  | unmappedAccess
  /-- Raised when the host device refuses an access (`20_memory.md` R70). Safe. -/
  | deviceRefused
  /-- Raised by a 16-bit data access at an odd address computed from a register (`20_memory.md` R75). Safe. -/
  | misalignedWord
  /-- Raised by a based or based-indexed sum above FFFFH, or FFFFFH with ES (`20_memory.md` R78). Safe. -/
  | addressOverflow
  /-- Raised by a fetch from a place that is not fetchable, and by an instruction or sequential flow that straddles two
  fetch regions (`20_memory.md` R76, R77). Safe. -/
  | fetchProhibited
  /-- Raised by a taken relative branch into another fetch region (`20_memory.md` R77). Safe. -/
  | crossRegionRelative
  /-- Raised by a store into the `FETCH_WINDOW` bytes that follow the storing instruction (`20_memory.md` R88). Safe. -/
  | staleFetch
  deriving DecidableEq, Repr

/-- What the model gives no meaning. -/
inductive Refusal where
  /-- Raised by an arm of `exec` whose instruction has no meaning yet. No arm does. Safe. -/
  | notModelled (mnemonic : String)
  deriving DecidableEq, Repr

/-- Run, or in HALT or STOP mode (`10_state.md` R49). -/
inductive Mode where
  | run | halt | stop
  deriving DecidableEq, Repr

/-- An interrupt request as the host presents it (`60_exceptions.md` R364). Its kind and its vector are those of its
source. -/
structure Request where
  /-- The number of its source among the product's sources; a number that names none is no request. -/
  src : Nat
  /-- The PR value of a maskable request (2 bits; 1 bit without ISP1). -/
  level : BitVec 2
  /-- How many boundaries pass before the request is pending: its time of arrival (log 8). -/
  delay : Nat
  /-- At how many boundaries where it may be accepted the CPU passes the pending request by: "at this boundary or at a later
  one", for which the manual gives no bound (R366, log 8). -/
  latency : Nat
  deriving DecidableEq, Repr

/-- The device agent's answer to one access (`20_memory.md` R70): a value (for a write: taken), or a refusal. -/
inductive DevAnswer where
  | value (v : BitVec 16)
  | refuse
  deriving DecidableEq, Repr

/-- What the CPU tells the host (`20_memory.md` R70, `60_exceptions.md` R364). -/
inductive HostMsg where
  /-- `DevRead(addr, n)`. -/
  | devRead (addr n : Nat)
  /-- `DevWrite(addr, n, v)`. -/
  | devWrite (addr n : Nat) (v : BitVec 16)
  /-- `Accept(q)`. -/
  | accept (q : Request)
  deriving DecidableEq, Repr

/-- Memory: the bytes that have been placed or written, in one canonical form (`memWf` in `Ops.lean`). -/
abbrev Memory := List Host.Cell

/-- The state of the CPU (`10_state.md` R20) and what the host presents to it. -/
structure State where
  /-- Program counter (R21). -/
  pc : BitVec 20
  /-- Program status word, bits 7..0 = IE Z RBS1 AC RBS0 ISP1 ISP0 CY (R24). -/
  psw : BitVec 8
  /-- Stack pointer, bit 0 always 0 (R33). -/
  sp : BitVec 16
  /-- The general registers: byte k is the RAM byte FFEE0H + k (R36, R37). -/
  regs : Vector (BitVec 8) 32
  /-- ES, bits 7-4 always 0 (R41). -/
  es : BitVec 8
  /-- CS, bits 7-4 always 0 (R42). -/
  cs : BitVec 8
  /-- PMC, bits 7-1 always 0, bit 0 = MAA (R44). -/
  pmc : BitVec 8
  /-- `IntInhibit` (R47). -/
  intInhibit : Bool
  /-- `PmcSettle` (R48). -/
  pmcSettle : Bool
  /-- `PmcWritten` (R44). -/
  pmcWritten : Bool
  /-- `Mode` (R49). -/
  mode : Mode
  /-- Flash, external memory and RAM below the register area (`20_memory.md` R60 to R63, R72). -/
  mem : Memory
  /-- The implementation parameters (`00_scope.md` R6); no step changes them (log 5). -/
  product : Product
  /-- The requests the host presents, in the order in which it presents them (`60_exceptions.md` R364, R370; log 8). -/
  pending : List Request
  /-- When the reset signal arrives (`60_exceptions.md` R374, `70_reset_and_hazards.md` R400): the number of steps before
  the next `Reset`, then the number of steps between it and the one after, and so on (log 12). -/
  resets : List Nat
  /-- The device agent's answers to the coming accesses, in order (`20_memory.md` R70; log 7). -/
  devIn : List DevAnswer
  /-- What the CPU has told the host, the latest first (log 7). -/
  hostOut : List HostMsg
  /-- How many unconstrained bits have been drawn (`00_scope.md` R11 `any_1`, log 6). -/
  draws : Nat
  deriving DecidableEq, Repr

/-- The state right after reset (`10_state.md` R52, `70_reset_and_hazards.md` R402): PSW = 06H, ES = 0FH, CS = PMC = 00H, the
latches 0, Mode Run. DESIGN CHOICE where the spec gives no value: registers 00H (log 1), SP 0000H (log 2), PC 00000H as
long as no image holds a RESET vector (log 3), the host presenting nothing (logs 7, 8, 12), product T (log 5). -/
def State.reset : State where
  pc := 0x00000
  psw := 0x06
  sp := 0x0000
  regs := Vector.replicate 32 0x00
  es := 0x0F
  cs := 0x00
  pmc := 0x00
  intInhibit := false
  pmcSettle := false
  pmcWritten := false
  mode := .run
  mem := []
  product := Config.productT
  pending := []
  resets := []
  devIn := []
  hostOut := []
  draws := 0

end Sys2Proof.Machine
end

