-- ==== Sys2Proof/Machine/Flags.lean ====
section
/-! DEFINITION. The flags of PSW (`10_state.md` R24 to R31) and the flag computations of `00_scope.md` R12 and of the
instruction files. -/

namespace Sys2Proof.Machine

/-- `v` with bit `n` replaced by `b`; the other bits stay. -/
def setBit8 (v : Byte) (n : Nat) (b : Bool) : Byte :=
  if b then v ||| (1#8 <<< n) else v &&& ~~~(1#8 <<< n)

/-- A Bool as the number 0 or 1. -/
def bitNat (b : Bool) : Nat := if b then 1 else 0

/-! ### The fields of PSW (R24) -/

def pswIE (p : Byte) : Bool := p.getLsbD 7
def pswZ (p : Byte) : Bool := p.getLsbD 6
def pswAC (p : Byte) : Bool := p.getLsbD 4
def pswCY (p : Byte) : Bool := p.getLsbD 0

/-- `RBS = RBS1 : RBS0`, bits 5 and 3 (R27). -/
def pswRBS (p : Byte) : BitVec 2 := p.extractLsb' 5 1 ++ p.extractLsb' 3 1

/-- `ISP = ISP1 : ISP0`, bits 2 and 1 (R29). -/
def pswISP (p : Byte) : BitVec 2 := p.extractLsb' 1 2

def setIE (p : Byte) (b : Bool) : Byte := setBit8 p 7 b
def setZ (p : Byte) (b : Bool) : Byte := setBit8 p 6 b
def setAC (p : Byte) (b : Bool) : Byte := setBit8 p 4 b
def setCY (p : Byte) (b : Bool) : Byte := setBit8 p 0 b

/-- Writes RBS1 and RBS0 (`48_cpu_control.md` R350). -/
def setRBS (p : Byte) (n : BitVec 2) : Byte := setBit8 (setBit8 p 5 (n.getLsbD 1)) 3 (n.getLsbD 0)

/-- Writes ISP1 and ISP0; without ISP1 (`HAS_ISP1` false) bit 2 is a storage bit that takes no part (log 33). -/
def setISP (hasIsp1 : Bool) (p : Byte) (v : BitVec 2) : Byte :=
  let p' := setBit8 p 1 (v.getLsbD 0)
  if hasIsp1 then setBit8 p' 2 (v.getLsbD 1) else p'

/-! ### Add and subtract (`00_scope.md` R12): exact sums on integers, then the flags -/

/-- What an 8-bit add or subtract gives. -/
structure Arith8 where
  res : Byte
  z : Bool
  ac : Bool
  cy : Bool
  deriving DecidableEq, Repr

/-- What a 16-bit add or subtract gives. -/
structure Arith16 where
  res : Word
  z : Bool
  cy : Bool
  deriving DecidableEq, Repr

/-- `add8(a, b, c)`. -/
def add8 (a b : Byte) (c : Bool) : Arith8 :=
  let s := a.toNat + b.toNat + bitNat c
  { res := BitVec.ofNat 8 s
    z := BitVec.ofNat 8 s == 0
    ac := decide (a.toNat % 16 + b.toNat % 16 + bitNat c > 0xF)
    cy := decide (s > 0xFF) }

/-- `sub8(a, b, c)`. -/
def sub8 (a b : Byte) (c : Bool) : Arith8 :=
  let d : Int := (a.toNat : Int) - b.toNat - bitNat c
  { res := BitVec.ofInt 8 d
    z := BitVec.ofInt 8 d == 0
    ac := decide ((((a.toNat % 16 : Nat) : Int) - ((b.toNat % 16 : Nat) : Int) - bitNat c) < 0)
    cy := decide (d < 0) }

/-- `add16(a, b)`. -/
def add16 (a b : Word) : Arith16 :=
  let s := a.toNat + b.toNat
  { res := BitVec.ofNat 16 s
    z := BitVec.ofNat 16 s == 0
    cy := decide (s > 0xFFFF) }

/-- `sub16(a, b)`. -/
def sub16 (a b : Word) : Arith16 :=
  let d : Int := (a.toNat : Int) - b.toNat
  { res := BitVec.ofInt 16 d
    z := BitVec.ofInt 16 d == 0
    cy := decide (d < 0) }

/-- PSW with Z, AC and CY of an 8-bit add or subtract. -/
def flags8 (p : Byte) (r : Arith8) : Byte := setCY (setAC (setZ p r.z) r.ac) r.cy

/-! ### The eight 8-bit operations (`42_alu8.md` R201 to R208): result and new PSW from dst, src and PSW -/

def aluAdd (p a b : Byte) : Byte × Byte := ((add8 a b false).res, flags8 p (add8 a b false))
def aluAddc (p a b : Byte) : Byte × Byte := ((add8 a b (pswCY p)).res, flags8 p (add8 a b (pswCY p)))
def aluSub (p a b : Byte) : Byte × Byte := ((sub8 a b false).res, flags8 p (sub8 a b false))
def aluSubc (p a b : Byte) : Byte × Byte := ((sub8 a b (pswCY p)).res, flags8 p (sub8 a b (pswCY p)))
def aluAnd (p a b : Byte) : Byte × Byte := (a &&& b, setZ p (a &&& b == 0))
def aluOr (p a b : Byte) : Byte × Byte := (a ||| b, setZ p (a ||| b == 0))
def aluXor (p a b : Byte) : Byte × Byte := (a ^^^ b, setZ p (a ^^^ b == 0))

/-- CMP0 (R209): Z by the value, AC and CY cleared. -/
def flagsCmp0 (p v : Byte) : Byte := setCY (setAC (setZ p (v == 0)) false) false

/-- CMPS (R210): Z and AC of the subtraction X - src; CY by the difference, A = 0 or X = 0. -/
def flagsCmps (p a x src : Byte) : Byte :=
  let r := sub8 x src false
  setCY (setAC (setZ p r.z) r.ac) (!(r.res == 0) || a == 0 || x == 0)

/-- MOVS (`40_mov8.md` R155): Z by src, CY by A or src being 0. -/
def flagsMovs (p a src : Byte) : Byte := setCY (setZ p (src == 0)) (a == 0 || src == 0)

/-- Z and CY of a 16-bit operation; AC is the drawn bit (`43_alu16_mul.md` R230). -/
def flags16 (p : Byte) (r : Arith16) (ac : Bool) : Byte := setCY (setAC (setZ p r.z) ac) r.cy

/-- INC (`44_incdec_shift_rot.md` R241): result and PSW; CY is kept. -/
def incByte (p v : Byte) : Byte × Byte :=
  (v + 1, setAC (setZ p (v + 1 == 0)) (decide (v.toNat % 16 = 0xF)))

/-- DEC (R242): result and PSW; CY is kept. -/
def decByte (p v : Byte) : Byte × Byte :=
  (v - 1, setAC (setZ p (v - 1 == 0)) (decide (v.toNat % 16 = 0)))

/-! ### Shifts and rotates (R245 to R255): result and the last bit shifted out -/

def shrByte (v : Byte) (cnt : Nat) : Byte × Bool := (v >>> cnt, v.getLsbD (cnt - 1))
def shlByte (v : Byte) (cnt : Nat) : Byte × Bool := (v <<< cnt, v.getLsbD (8 - cnt))
def sarByte (v : Byte) (cnt : Nat) : Byte × Bool := (v.sshiftRight cnt, v.getLsbD (cnt - 1))
def shrWord (v : Word) (cnt : Nat) : Word × Bool := (v >>> cnt, v.getLsbD (cnt - 1))
def shlWord (v : Word) (cnt : Nat) : Word × Bool := (v <<< cnt, v.getLsbD (16 - cnt))
def sarWord (v : Word) (cnt : Nat) : Word × Bool := (v.sshiftRight cnt, v.getLsbD (cnt - 1))

/-- ROR (R251), ROL (R252), RORC (R253), ROLC (R254), ROLWC (R255). `c` is CY before the instruction. -/
def rorByte (v : Byte) : Byte × Bool := ((v >>> 1) ||| ((v &&& 1) <<< 7), v.getLsbD 0)
def rolByte (v : Byte) : Byte × Bool := ((v <<< 1) ||| (v >>> 7), v.getLsbD 7)
def rorcByte (v : Byte) (c : Bool) : Byte × Bool := ((v >>> 1) ||| (BitVec.ofNat 8 (bitNat c) <<< 7), v.getLsbD 0)
def rolcByte (v : Byte) (c : Bool) : Byte × Bool := ((v <<< 1) ||| BitVec.ofNat 8 (bitNat c), v.getLsbD 7)
def rolcWord (v : Word) (c : Bool) : Word × Bool := ((v <<< 1) ||| BitVec.ofNat 16 (bitNat c), v.getLsbD 15)

end Sys2Proof.Machine
end

