-- ==== Sys2Proof/Machine/Ops.lean ====
section
/-! DEFINITION. The named operations over registers and memory: register banks (`10_state.md` R36, R37), the memory list,
the region dispatch of data accesses (`20_memory.md` R73), device accesses (R70), instruction fetch (R76), sequential
flow and branches (R77), the stack (`10_state.md` R33 to R35), and taking an exception with its return (`46_call_ret_stack.md`
R295, R297, `60_exceptions.md` R367). -/

namespace Sys2Proof.Machine

/-- An operation answers a value or stops with a fault; a fault commits nothing (`60_exceptions.md` R360). -/
abbrev Res (α : Type) := Except Fault α

/-- The outcome of a meaning. -/
def outcome : Res State → Host.Outcome State Fault Refusal
  | .ok s => .next s
  | .error f => .fault f

/-! ### General registers (R36, R37) -/

/-- The register's number n within a bank. -/
def regNum : Reg8 → Nat
  | .x => 0 | .a => 1 | .c => 2 | .b => 3 | .e => 4 | .d => 5 | .l => 6 | .h => 7

/-- The place of `r[n]` of a bank among the 32 register bytes: FFEF8H - 8 * bank + n, counted from FFEE0H (R37). -/
def regIndex (bank : BitVec 2) (r : Reg8) : Nat := 24 - 8 * bank.toNat + regNum r

/-- The low and the high register of a pair (R36). -/
def pairLo : Reg16 → Reg8
  | .ax => .x | .bc => .c | .de => .e | .hl => .l

def pairHi : Reg16 → Reg8
  | .ax => .a | .bc => .b | .de => .d | .hl => .h

/-- The bank that the running instruction uses (R37). -/
def State.bank (s : State) : BitVec 2 := pswRBS s.psw

/-- The register byte at FFEE0H + k. -/
def State.regByte (s : State) (k : Nat) : Byte := (s.regs[k]?).getD 0

def State.setRegByte (s : State) (k : Nat) (v : Byte) : State := { s with regs := s.regs.setIfInBounds k v }

/-- `r[n]` of bank `b`. -/
def State.r8 (s : State) (b : BitVec 2) (r : Reg8) : Byte := s.regByte (regIndex b r)

/-- `r[n] <- v` in bank `b`: the bank at the start of the instruction, also where the instruction has written PSW
meanwhile (R37, log 34). -/
def State.setR8 (s : State) (b : BitVec 2) (r : Reg8) (v : Byte) : State := s.setRegByte (regIndex b r) v

/-- `rp[n] = r[2n+1] : r[2n]` (`00_scope.md` R11). -/
def State.r16 (s : State) (b : BitVec 2) (rp : Reg16) : Word := word (s.r8 b (pairLo rp)) (s.r8 b (pairHi rp))

def State.setR16 (s : State) (b : BitVec 2) (rp : Reg16) (v : Word) : State :=
  (s.setR8 b (pairLo rp) (lo8 v)).setR8 b (pairHi rp) (hi8 v)

/-- Every write to SP stores `value & FFFEH` (R33). -/
def State.setSp (s : State) (v : Word) : State := { s with sp := v &&& 0xFFFE }

/-- ES and CS store `value & 0FH` (R41, R42). -/
def State.setEs (s : State) (v : Byte) : State := { s with es := v &&& 0x0F }

def State.setCs (s : State) (v : Byte) : State := { s with cs := v &&& 0x0F }

def State.setPsw (s : State) (v : Byte) : State := { s with psw := v }

/-- `CY <- b`. -/
def State.setCy (s : State) (b : Bool) : State := s.setPsw (setCY s.psw b)

/-- `any_1()`: draws the next unconstrained bit (`00_scope.md` R11, log 6). -/
def State.drawBit (s : State) : Bool × State := (Config.freeBit s.draws, { s with draws := s.draws + 1 })

/-! ### The memory list -/

/-- The byte at an address, if one has been placed or written there: an unlisted address has no value (log 4). -/
def memRead (a : Nat) : Memory → Option Byte
  | [] => none
  | (b, v) :: m => if a = b then some v else memRead a m

/-- Writes a byte, keeping the addresses in rising order. -/
def memWrite (a : Nat) (v : Byte) : Memory → Memory
  | [] => [(a, v)]
  | (b, w) :: m =>
    if a < b then (a, v) :: (b, w) :: m
    else if a = b then (a, v) :: m
    else (b, w) :: memWrite a v m

/-- Every address of the list is above `lo`, below the register area, and the addresses rise strictly. -/
def memSorted : Nat → Memory → Bool
  | _, [] => true
  | lo, (b, _) :: m => decide (lo ≤ b) && decide (b < 0xFFEE0) && memSorted (b + 1) m

/-- The canonical form: strictly rising addresses below FFEE0H (the bytes above are registers, or no memory). No entry
can equal what an unlisted address reads as, which is no value. -/
def memWf (m : Memory) : Bool := memSorted 0 m

/-! ### Regions (`20_memory.md` R73) -/

/-- What answers a data access. -/
inductive Region where
  /-- FFFF8H-FFFFEH but FFFFBH: a CPU register. -/
  | cpu
  /-- FFFFBH. -/
  | reserved
  /-- An SFR, MEM or a 2nd SFR. -/
  | device
  /-- FFEE0H-FFEFFH: the general registers. -/
  | regs
  /-- RAM below the registers. -/
  | ram
  | mirror
  | flash
  | ext
  | unmapped
  deriving DecidableEq, Repr

/-- Region dispatch, first match wins (R73). -/
def region (p : Product) (a : Nat) : Region :=
  if 0xFFFF8 ≤ a ∧ a ≤ 0xFFFFE then (if a = 0xFFFFB then .reserved else .cpu)
  else if 0xFFF00 ≤ a ∧ a ≤ 0xFFFFF then .device
  else if 0xFFEE0 ≤ a ∧ a ≤ 0xFFEFF then .regs
  else if p.ramBase ≤ a ∧ a ≤ 0xFFEDF then .ram
  else if 0xF0000 ≤ a ∧ a ≤ p.sfr2Top then .device
  else if p.mirrorLo ≤ a ∧ a ≤ p.mirrorHi then .mirror
  else if a ≤ p.flashTop then .flash
  else if p.hasExtMem = true ∧ a ≤ 0xEDFFF then .ext
  else .unmapped

/-- The flash address behind a mirror address: `(MAA << 16) | a[15:0]` (R64). -/
def mirrorSource (s : State) (a : Nat) : Nat := (if s.pmc.getLsbD 0 then 0x10000 else 0) + a % 0x10000

/-! ### Device accesses (R70): one answer of the device for each access, in order -/

/-- `DevRead(a, n)`. -/
def devRead (a n : Nat) (s : State) : Res (Word × State) :=
  match s.devIn with
  | .value v :: rest => .ok (v, { s with devIn := rest, hostOut := .devRead a n :: s.hostOut })
  | _ => .error .deviceRefused

/-- `DevWrite(a, n, v)`. -/
def devWrite (a n : Nat) (v : Word) (s : State) : Res State :=
  match s.devIn with
  | .value _ :: rest => .ok { s with devIn := rest, hostOut := .devWrite a n v :: s.hostOut }
  | _ => .error .deviceRefused

/-! ### The CPU registers as memory (`10_state.md` R43) -/

def cpuRead (a : Nat) (s : State) : Byte :=
  if a = 0xFFFF8 then lo8 s.sp
  else if a = 0xFFFF9 then hi8 s.sp
  else if a = 0xFFFFA then s.psw
  else if a = 0xFFFFC then s.cs
  else if a = 0xFFFFD then s.es
  else s.pmc

/-- A write to PMC stores `value & 01H` and may happen once after reset (R44). -/
def pmcWrite (v : Byte) (s : State) : Res State :=
  if s.pmcWritten then .error .pmcRewrite
  else .ok { s with pmc := v &&& 0x01, pmcWritten := true }

def cpuWrite (a : Nat) (v : Byte) (s : State) : Res State :=
  if a = 0xFFFF8 then .ok (s.setSp (word v (hi8 s.sp)))
  else if a = 0xFFFF9 then .ok (s.setSp (word (lo8 s.sp) v))
  else if a = 0xFFFFA then .ok (s.setPsw v)
  else if a = 0xFFFFC then .ok (s.setCs v)
  else if a = 0xFFFFD then .ok (s.setEs v)
  else pmcWrite v s

/-! ### Data accesses -/

/-- A byte that is stored: listed, or `UndefinedRead` (`10_state.md` R38, `70_reset_and_hazards.md` R404). -/
def storedByte (a : Nat) (s : State) : Res Byte :=
  match memRead a s.mem with
  | some v => .ok v
  | none => .error .undefinedRead

/-- `MemRead(a, 1)` (`20_memory.md` R73). A mirror address whose flash byte lies above `FLASH_TOP` is unmapped (log 17). -/
def read8 (a : Nat) (s : State) : Res (Byte × State) :=
  match region s.product a with
  | .cpu => .ok (cpuRead a s, s)
  | .reserved => .error .undefinedRead
  | .device =>
    match devRead a 1 s with
    | .ok (v, t) => .ok (lo8 v, t)
    | .error f => .error f
  | .regs => .ok (s.regByte (a - 0xFFEE0), s)
  | .ram | .flash | .ext =>
    match storedByte a s with
    | .ok v => .ok (v, s)
    | .error f => .error f
  | .mirror =>
    if s.pmcSettle then .error .mirrorTooEarly
    else if mirrorSource s a ≤ s.product.flashTop then
      match storedByte (mirrorSource s a) s with
      | .ok v => .ok (v, s)
      | .error f => .error f
    else .error .unmappedAccess
  | .unmapped => .error .unmappedAccess

/-- `MemWrite(a, 1, v)` (`20_memory.md` R73). External memory takes writes where the product says so (log 18). -/
def write8 (a : Nat) (v : Byte) (s : State) : Res State :=
  match region s.product a with
  | .cpu => cpuWrite a v s
  | .reserved => .error .reservedWrite
  | .device => devWrite a 1 (v.zeroExtend 16) s
  | .regs => .ok (s.setRegByte (a - 0xFFEE0) v)
  | .ram => .ok { s with mem := memWrite a v s.mem }
  | .ext => if s.product.extWritable then .ok { s with mem := memWrite a v s.mem } else .error .deviceRefused
  | .mirror => .error .writeToReadOnly
  | .flash => .error .writeToReadOnly
  | .unmapped => .error .unmappedAccess

/-- Both bytes of a word belong to a device: one access of two bytes (R70, log 19). -/
def devWord (p : Product) (a : Nat) : Bool := decide (region p a = .device) && decide (region p (a + 1) = .device)

/-- `MemRead(a, 2)`: the low byte at `a`, the high byte at `a + 1` (R74). -/
def read16 (a : Nat) (s : State) : Res (Word × State) :=
  if devWord s.product a then devRead a 2 s
  else do
    let (l, s1) ← read8 a s
    let (h, s2) ← read8 (a + 1) s1
    .ok (word l h, s2)

/-- `MemWrite(a, 2, v)` (R74). -/
def write16 (a : Nat) (v : Word) (s : State) : Res State :=
  if devWord s.product a then devWrite a 2 v s
  else do
    let s1 ← write8 a (lo8 v) s
    write8 (a + 1) (hi8 v) s1

/-- The address lies in `[next, next + FETCH_WINDOW)`: the byte may already sit in the instruction queue (R88). -/
def stale (s : State) (next : Addr) (a : Nat) : Bool :=
  decide (next.toNat ≤ a) && decide (a < next.toNat + s.product.fetchWindow)

/-- What a store has left, or `StaleFetch`, the last of the checks of a write (`60_exceptions.md` R363). -/
def unlessStale (hit : Bool) (t : State) : Res State := if hit then .error .staleFetch else .ok t

/-- A data store of one byte by the instruction whose successor is at `next` (R88, log 16). -/
def store8 (next : Addr) (a : Nat) (v : Byte) (s : State) : Res State := do
  let t ← write8 a v s
  unlessStale (stale s next a) t

/-- A data store of one word. -/
def store16 (next : Addr) (a : Nat) (v : Word) (s : State) : Res State := do
  let t ← write16 a v s
  unlessStale (stale s next a || stale s next (a + 1)) t

/-- What a data read of one byte sees, without the effects of a device: the view of memory that statements about what
stays unchanged use. A device or an address without a value has none. -/
def State.peek (s : State) (a : Nat) : Option Byte :=
  match region s.product a with
  | .cpu => some (cpuRead a s)
  | .regs => some (s.regByte (a - 0xFFEE0))
  | .ram | .flash | .ext => memRead a s.mem
  | .mirror => if mirrorSource s a ≤ s.product.flashTop then memRead (mirrorSource s a) s.mem else none
  | .reserved | .device | .unmapped => none

/-! ### Instruction fetch (R76) -/

/-- The regions that instructions can be fetched from (R76, R77). -/
inductive FetchRegion where
  | flash | ram | ext
  deriving DecidableEq, Repr

def fetchRegion (p : Product) (a : Nat) : Option FetchRegion :=
  match region p a with
  | .flash => some .flash
  | .ram => some .ram
  | .ext => some .ext
  | .cpu | .reserved | .device | .regs | .mirror | .unmapped => none

/-- Up to `n` bytes of one fetch region at consecutive addresses from `a`, and the fault that the fetch of the byte after
them would raise. -/
def fetchBytes (s : State) (r : FetchRegion) : Nat → Nat → List Byte × Fault
  | 0, _ => ([], .fetchProhibited)
  | n + 1, a =>
    if fetchRegion s.product a = some r then
      match memRead a s.mem with
      | some v => ((v :: (fetchBytes s r n (a + 1)).1), (fetchBytes s r n (a + 1)).2)
      | none => ([], .undefinedRead)
    else ([], .fetchProhibited)

/-- Fetches and decodes the instruction at `a`: all its bytes lie in one fetch region (R76). Bytes after its end are not
looked at. A byte that cannot be fetched stops it with its own fault, unless the bytes before it are already no encoding
(11H before an opcode without an ES form among them; logs 13, 14). -/
def fetchAt (s : State) (a : Nat) : Res (Instr × Nat) :=
  match fetchRegion s.product a with
  | none => .error .fetchProhibited
  | some r =>
    match decode (fetchBytes s r 5 a).1 with
    | .ok x => .ok x
    | .error .truncated => .error (fetchBytes s r 5 a).2
    | .error _ => .error .illegalEncoding

/-! ### The end of an instruction -/

/-- `next`: the address of the instruction that follows in memory (`00_scope.md` R11, `10_state.md` R22, R23). -/
def nextPc (i : Instr) (s : State) : Addr := s.pc + BitVec.ofNat 20 i.size

/-- Two addresses lie in two different fetch regions (R77). -/
def crosses (p : Product) (a b : Nat) : Bool :=
  match fetchRegion p a, fetchRegion p b with
  | some r, some r' => decide (r ≠ r')
  | _, _ => false

/-- The instruction that led from `s0` to `s` has written PMC (`10_state.md` R48: the latch `PmcSettle`, log 23). -/
def wrotePmc (s0 s : State) : Bool := !s0.pmcWritten && s.pmcWritten

/-- The instruction that began at `s0` completes with PC at `target`: the latches `IntInhibit` (`10_state.md` R47) and
`PmcSettle` (R48) are set or cleared. -/
def finish (s0 s : State) (target : Addr) (inhibit : Bool) : State :=
  { s with pc := target, intInhibit := inhibit, pmcSettle := wrotePmc s0 s }

/-- Ends with `PC <- next` (R22), a sequential flow that must stay in its fetch region (R77). -/
def retire (i : Instr) (s0 s : State) (inhibit : Bool) : Res State :=
  if crosses s0.product s0.pc.toNat (nextPc i s0).toNat then .error .fetchProhibited
  else .ok (finish s0 s (nextPc i s0) inhibit)

/-- A relative branch that is taken must stay in the fetch region of its instruction (R77). -/
def branchTo (s0 s : State) (target : Addr) (inhibit : Bool) : Res State :=
  if crosses s0.product s0.pc.toNat target.toNat then .error .crossRegionRelative
  else .ok (finish s0 s target inhibit)

/-- The target of `$addr20`: next + sext(jdisp8) modulo 2^20 (`30_encoding.md` R112). -/
def rel8 (i : Instr) (s : State) (disp : Byte) : Addr := nextPc i s + disp.signExtend 20

/-- The target of `$!addr20`: next + sext(jdisp16) modulo 2^20 (R112). -/
def rel16 (i : Instr) (s : State) (disp : Word) : Addr := nextPc i s + disp.signExtend 20

/-- The target of `!addr16` and of a 16-bit vector: `0000 : addr16` (R111). -/
def abs16 (w : Word) : Addr := w.zeroExtend 20

/-! ### The stack (`10_state.md` R33 to R35) -/

/-- `S(k)`: the address `F0000H + ((SP + k) & FFFFH)` (`46_call_ret_stack.md`). -/
def stackAddr (s : State) (k : BitVec 16) : Nat := 0xF0000 + (s.sp + k).toNat

/-- A stack byte may lie in `RAM_BASE`..FFEDFH only (R34). -/
def inStack (p : Product) (a : Nat) : Bool := decide (p.ramBase ≤ a) && decide (a ≤ 0xFFEDF)

/-- The range check of a whole frame (R34, `46_call_ret_stack.md` R290). -/
def stackOk (s : State) (ks : List (BitVec 16)) : Bool := ks.all fun k => inStack s.product (stackAddr s k)

/-- A byte of the frame lies in the fetch window behind the storing instruction (`20_memory.md` R88). -/
def stackStale (s : State) (next : Addr) (ks : List (BitVec 16)) : Bool :=
  ks.any fun k => stale s next (stackAddr s k)

/-- Writes the byte at `S(k)`. The frame's range check has made sure that it is RAM. -/
def State.pushByte (s : State) (k : BitVec 16) (v : Byte) : Memory → Memory := memWrite (stackAddr s k) v

/-- A two-byte frame (R35): `hi` at SP-1, `lo` at SP-2, SP <- SP-2. -/
def push2 (lo hi : Byte) (s : State) : Res State :=
  if stackOk s [-1, -2] then
    .ok { s with mem := s.pushByte (-2) lo (s.pushByte (-1) hi s.mem), sp := s.sp - 2 }
  else .error .stackOutsideRam

/-- A four-byte frame (R35): `top` at SP-1, then PC19-16, PC15-8 and PC7-0 of `ret` at SP-2, SP-3, SP-4; SP <- SP-4. -/
def push4 (ret : Addr) (top : Byte) (s : State) : Res State :=
  if stackOk s [-1, -2, -3, -4] then
    .ok { s with
      mem := s.pushByte (-4) (addrL ret) (s.pushByte (-3) (addrH ret)
        (s.pushByte (-2) (addrS ret) (s.pushByte (-1) top s.mem)))
      sp := s.sp - 4 }
  else .error .stackOutsideRam

/-- Reads the byte at `S(k)` after the frame's range check. -/
def popByte (k : BitVec 16) (s : State) : Res Byte := storedByte (stackAddr s k) s

/-- A push by the instruction whose successor is at `next`. -/
def pushing (next : Addr) (ks : List (BitVec 16)) (push : State → Res State) (s : State) : Res State := do
  let t ← push s
  unlessStale (stackStale s next ks) t

/-! ### Taking an exception, and returning from one -/

/-- The entry that BRK and an accepted interrupt share (`46_call_ret_stack.md` R295, `60_exceptions.md` R367): reads the
handler's address at `vector`, stacks `ret` and PSW, clears IE, and goes to `0000 : handler`. What else changes (ISP, Mode,
the latches) is the caller's. -/
def enterException (vector : Nat) (ret : Addr) (s : State) : Res State := do
  let (t, s1) ← read16 vector s
  let s2 ← push4 ret s1.psw s1
  .ok { s2 with psw := setIE s2.psw false, pc := abs16 t }

/-- The three bytes of a return address at SP, SP+1, SP+2; bits 7-4 of the third are ignored (`46_call_ret_stack.md` R296). -/
def popAddr (s : State) : Res Addr := do
  let l ← popByte 0 s
  let h ← popByte 1 s
  let u ← popByte 2 s
  .ok (addrOf l h u)

/-- The return that RETI and RETB share (`46_call_ret_stack.md` R297, R298): PC and all 8 bits of PSW from the frame,
SP <- SP + 4, and no interrupt before the next instruction has run. -/
def returnFromException (s : State) : Res State :=
  if stackOk s [0, 1, 2, 3] then do
    let a ← popAddr s
    let p ← popByte 3 s
    .ok (finish s { s with sp := s.sp + 4, psw := p } a true)
  else .error .stackOutsideRam

/-! ### Interrupt requests (`60_exceptions.md` R364 to R373) -/

/-- The source of a request, if the product has it (`00_scope.md` R6). -/
def Request.source (p : Product) (q : Request) : Option Source := p.sources[q.src]?

/-- `q.vector`: the vector table address of a request's source. -/
def Request.vector (p : Product) (q : Request) : Nat :=
  match q.source p with
  | some c => c.vector
  | none => 0

/-- `q.kind`: the request comes from a source of kind `k`. -/
def Request.isKind (p : Product) (k : RequestKind) (q : Request) : Bool :=
  match q.source p with
  | some c => decide (c.kind = k)
  | none => false

/-- The priority comparison: level not lower in priority than ISP allows, 0 the highest (R366, log 10); one bit without
ISP1 (log 33). -/
def priorityOk (s : State) (q : Request) : Bool :=
  if s.product.hasIsp1 then decide (q.level.toNat ≤ (pswISP s.psw).toNat)
  else decide (bitNat (q.level.getLsbD 0) ≤ bitNat ((pswISP s.psw).getLsbD 0))

/-- The acceptance condition of a pending request (R366, R371). -/
def permitted (s : State) (q : Request) : Bool :=
  decide (q.delay = 0) && !s.intInhibit &&
    (q.isKind s.product .nonmaskable || (q.isKind s.product .maskable && pswIE s.psw && priorityOk s q))

/-- The CPU accepts the request at this boundary: the condition holds, and the boundaries at which it passed the request by
are over (R366: no latency bound, log 8). -/
def acceptable (s : State) (q : Request) : Bool := permitted s q && decide (q.latency = 0)

/-- The first acceptable request in the host's order (R370), and the others. -/
def pickRequest (s : State) : List Request → Option (Request × List Request)
  | [] => none
  | q :: qs =>
    if acceptable s q then some (q, qs)
    else
      match pickRequest s qs with
      | some (r, rest) => some (r, q :: rest)
      | none => none

/-- A request that has not been accepted at the boundary before `s`: nearer to its arrival, and one boundary the less to be
passed by at where it could have been accepted (log 8). -/
def Request.tick (s : State) (q : Request) : Request :=
  { q with delay := q.delay - 1, latency := if permitted s q then q.latency - 1 else q.latency }

/-- The times of the resets after a step that is none. -/
def tickResets : List Nat → List Nat
  | [] => []
  | n :: ns => (n - 1) :: ns

/-- `Reset` arrives at this boundary. -/
def State.resetNow (s : State) : Bool := decide (s.resets.head? = some 0)

/-- One boundary has passed, with no acceptance and no reset. -/
def State.tick (s : State) : State :=
  { s with pending := s.pending.map (Request.tick s), resets := tickResets s.resets }

/-- ISP after the acceptance of a request: `isp_on_accept(level)` for a maskable one (R368), as before for a non-maskable
one (R371). -/
def pswAccept (s : State) (q : Request) (p : Byte) : Byte :=
  if q.isKind s.product .maskable then
    setISP s.product.hasIsp1 p (s.product.ispOnAccept[q.level.toNat]'(by have := q.level.isLt; omega))
  else p

/-- Acceptance of a request (R367): the shared entry with the request's vector and the PC of the instruction not yet
executed, then ISP, Mode, `IntInhibit` and `Accept(q)`. -/
def acceptRequest (q : Request) (rest : List Request) (s : State) : Res State := do
  let t ← enterException (q.vector s.product) s.pc s
  .ok { t with
    psw := pswAccept s q t.psw
    mode := .run
    intInhibit := false
    pending := rest.map (Request.tick s)
    resets := tickResets s.resets
    hostOut := .accept q :: t.hostOut }

/-- A maskable request that has arrived ends HALT / STOP without entry while IE = 0, where the product says so (R384). -/
def wakes (s : State) : Bool :=
  s.product.wakeOnMaskedIE0 && !pswIE s.psw &&
    s.pending.any fun q => q.isKind s.product .maskable && decide (q.delay = 0)

/-! ### The reset event (`70_reset_and_hazards.md` R400 to R402) -/

/-- RAM bytes are unwritten after reset; flash and external memory stay (R402). -/
def dropRam (p : Product) (m : Memory) : Memory := m.filter fun c => decide (region p c.1 ≠ .ram)

/-- The reset event: the reset values of `10_state.md` R52, then `PC <- 0000 : MemRead(RESET_VECTOR_ADDR, 2)` (R401). Nothing
is stacked. What belongs to the host goes on, the times of the resets with the next one (log 12). -/
def takeReset (s : State) : Res State := do
  let t : State := { State.reset with
    product := s.product, mem := dropRam s.product s.mem, pending := s.tick.pending,
    resets := s.resets.tail, devIn := s.devIn, hostOut := s.hostOut, draws := s.draws }
  let (v, t1) ← read16 s.product.resetVectorAddr t
  .ok { t1 with pc := abs16 v }

end Sys2Proof.Machine
end

