-- ==== Sys2Proof/Machine/Operands.lean ====
section
/-! DEFINITION. The operand forms (`30_encoding.md` R109 to R121): effective addresses, and reading and writing the operands
of every instruction. The order of evaluation is that of `40_mov8.md` R140. -/

namespace Sys2Proof.Machine

/-! ### Effective addresses -/

/-- The short direct address (R113, log 20): FFE00H | off for off >= 20H, FFF00H | off below. -/
def saddrAddr (off : Byte) : Nat := if 0x20 ≤ off.toNat then 0xFFE00 + off.toNat else 0xFFF00 + off.toNat

/-- `FFF00H | sfr` (R113, R117). -/
def sfrAddr (off : Byte) : Nat := 0xFFF00 + off.toNat

/-- The upper part of a data address: FH without PREFIX, `ES[3:0]` with it (R104). -/
def upper (s : State) (es : Bool) : Nat := if es then (s.es.toNat % 16) * 0x10000 else 0xF0000

/-- `base + off` of a based or based-indexed operand (R104, R119, R120), the sum in unbounded integers. Above FFFFH without
PREFIX, above FFFFFH with it: `AddressOverflow` (`20_memory.md` R78). -/
def sumAddr (s : State) (es : Bool) (base off : Nat) : Res Nat :=
  if es then
    if upper s true + base + off > 0xFFFFF then .error .addressOverflow else .ok (upper s true + base + off)
  else
    if base + off > 0xFFFF then .error .addressOverflow else .ok (0xF0000 + (base + off))

/-- `EA(mem)`: the 20-bit address of a memory operand, from the registers of the current bank (R114 to R121). -/
def ea (s : State) : MemOp → Res Nat
  | .saddr off => .ok (saddrAddr off)
  | .sfr off => .ok (sfrAddr off)
  | .abs es w => .ok (upper s es + w.toNat)
  | .de es => .ok (upper s es + (s.r16 s.bank .de).toNat)
  | .hl es => .ok (upper s es + (s.r16 s.bank .hl).toNat)
  | .deOff es off => sumAddr s es (s.r16 s.bank .de).toNat off.toNat
  | .hlOff es off => sumAddr s es (s.r16 s.bank .hl).toNat off.toNat
  | .spOff off => sumAddr s false s.sp.toNat off.toNat
  | .hlB es => sumAddr s es (s.r16 s.bank .hl).toNat (s.r8 s.bank .b).toNat
  | .hlC es => sumAddr s es (s.r16 s.bank .hl).toNat (s.r8 s.bank .c).toNat
  | .wordB es w => sumAddr s es w.toNat (s.r8 s.bank .b).toNat
  | .wordC es w => sumAddr s es w.toNat (s.r8 s.bank .c).toNat
  | .wordBC es w => sumAddr s es w.toNat (s.r16 s.bank .bc).toNat

/-- The forms whose address is an immediate field of the instruction (`20_memory.md` R75). -/
def isDirect : MemOp → Bool
  | .saddr _ | .sfr _ | .abs _ _ => true
  | .de _ | .hl _ | .deOff _ _ | .hlOff _ _ | .spOff _ | .hlB _ | .hlC _ | .wordB _ _ | .wordC _ _ | .wordBC _ _ => false

/-- `[SP+byte]`, which the stack's range check covers (`10_state.md` R34). -/
def isStack : MemOp → Bool
  | .spOff _ => true
  | .saddr _ | .sfr _ | .abs _ _ | .de _ | .hl _ | .deOff _ _ | .hlOff _ _ | .hlB _ | .hlC _ | .wordB _ _ | .wordC _ _
  | .wordBC _ _ => false

/-- The address of a byte operand. -/
def byteAddr (s : State) (m : MemOp) : Res Nat := do
  let a ← ea s m
  if isStack m && !inStack s.product a then .error .stackOutsideRam else .ok a

/-- The address of a word operand (R75): a direct form clears bit 0, a computed odd address is `MisalignedWord`. -/
def wordAddr (s : State) (m : MemOp) : Res Nat := do
  let a ← ea s m
  if isDirect m then .ok (a - a % 2)
  else if a % 2 = 1 then .error .misalignedWord
  else if isStack m && !(inStack s.product a && inStack s.product (a + 1)) then .error .stackOutsideRam
  else .ok a

/-! ### Memory operands -/

/-- Reads a byte operand. -/
def loadByte (m : MemOp) (s : State) : Res (Byte × State) := do
  let a ← byteAddr s m
  read8 a s

/-- Writes a byte operand. -/
def storeByte (next : Addr) (m : MemOp) (v : Byte) (s : State) : Res State := do
  let a ← byteAddr s m
  store8 next a v s

/-- Reads a word operand. -/
def loadWord (m : MemOp) (s : State) : Res (Word × State) := do
  let a ← wordAddr s m
  read16 a s

/-- Writes a word operand. -/
def storeWord (next : Addr) (m : MemOp) (v : Word) (s : State) : Res State := do
  let a ← wordAddr s m
  store16 next a v s

/-- Read-modify-write of a byte operand (`20_memory.md` R80): one read, then one write of the same address. `f` gives the
byte to write and a value to keep from the byte read. -/
def modifyByte {α : Type} (next : Addr) (m : MemOp) (f : Byte → Byte × α) (s : State) : Res (α × State) := do
  let a ← byteAddr s m
  let (v, s1) ← read8 a s
  let s2 ← store8 next a (f v).1 s1
  .ok ((f v).2, s2)

/-- Read-modify-write of a word operand (R80). -/
def modifyWord (next : Addr) (m : MemOp) (f : Word → Word) (s : State) : Res State := do
  let a ← wordAddr s m
  let (v, s1) ← read16 a s
  store16 next a (f v) s1

/-! ### Bit operands (`45_bit.md` R270) -/

/-- The byte that holds the bit. -/
def loadBitByte (l : BitLoc) (s : State) : Res (Byte × State) :=
  match l with
  | .a => .ok (s.r8 s.bank .a, s)
  | .mem m => loadByte m s

/-- Writes the whole byte back with one bit changed; `f` gives the new bit from CY as it is. -/
def modifyBit (next : Addr) (l : BitLoc) (bit : BitVec 3) (b : Bool) (s : State) : Res State :=
  match l with
  | .a => .ok (s.setR8 s.bank .a (setBit8 (s.r8 s.bank .a) bit.toNat b))
  | .mem m => do
    let (_, t) ← modifyByte next m (fun v => (setBit8 v bit.toNat b, ())) s
    .ok t

/-- The `PSW.bit` forms: `sfr.bit` with the sfr byte FAH (R270). -/
def isPswBit (l : BitLoc) : Bool := decide (l = .mem (.sfr 0xFA))

/-- The PSW forms of MOV: the `sfr` form with the sfr byte FAH (`40_mov8.md` R147). -/
def isPsw (m : MemOp) : Bool := decide (m = .sfr 0xFA)

/-! ### The shared shapes of the instruction files -/

/-- The two-operand 8-bit operations (`42_alu8.md` R200): `f` gives result and new PSW from PSW, dst and src; the result is
written to dst unless the operation is a comparison. -/
def execAlu (i : Instr) (f : Byte → Byte → Byte → Byte × Byte) (writes : Bool) (o : AluOp) (s : State) : Res State :=
  let a := s.r8 s.bank .a
  let toReg (r : Reg8) (x : Byte × Byte) (t : State) : State :=
    if writes then (t.setR8 s.bank r x.1).setPsw x.2 else t.setPsw x.2
  match o with
  | .aImm d => retire i s (toReg .a (f s.psw a d) s) false
  | .aReg r => retire i s (toReg .a (f s.psw a (s.r8 s.bank r)) s) false
  | .regA r => retire i s (toReg r (f s.psw (s.r8 s.bank r) a) s) false
  | .aMem m => do
    let (v, t) ← loadByte m s
    retire i s (toReg .a (f s.psw a v) t) false
  | .saddrImm off d =>
    if writes then do
      let (p, t) ← modifyByte (nextPc i s) (.saddr off) (fun v => f s.psw v d) s
      retire i s (t.setPsw p) false
    else do
      let (v, t) ← loadByte (.saddr off) s
      retire i s (t.setPsw (f s.psw v d).2) false
  | .absImm es w d => do
    let (v, t) ← loadByte (.abs es w) s
    retire i s (t.setPsw (f s.psw v d).2) false

/-- The source of ADDW, SUBW, CMPW (`43_alu16_mul.md` R230). -/
def loadAluW (o : AluWOp) (s : State) : Res (Word × State) :=
  match o with
  | .imm w => .ok (w, s)
  | .reg rp => .ok (s.r16 s.bank rp, s)
  | .mem m => loadWord m s

/-- ADDW, SUBW, CMPW: AX with the source; Z and CY by the result, AC an unconstrained bit (R231 to R233). -/
def execAluW (i : Instr) (f : Word → Word → Arith16) (writes : Bool) (o : AluWOp) (s : State) : Res State := do
  let (v, t) ← loadAluW o s
  let r := f (s.r16 s.bank .ax) v
  let (ac, t1) := t.drawBit
  let t2 := if writes then t1.setR16 s.bank .ax r.res else t1
  retire i s (t2.setPsw (flags16 s.psw r ac)) false

/-- A shift or rotate of an 8-bit register: the register and CY (`44_incdec_shift_rot.md` R240). -/
def execShift8 (i : Instr) (r : Reg8) (x : Byte × Bool) (s : State) : Res State :=
  retire i s ((s.setR8 s.bank r x.1).setCy x.2) false

/-- A shift or rotate of a register pair. -/
def execShift16 (i : Instr) (rp : Reg16) (x : Word × Bool) (s : State) : Res State :=
  retire i s ((s.setR16 s.bank rp x.1).setCy x.2) false

/-- The forms whose destination is CY (`45_bit.md` R271 to R275): `f` gives CY from CY and the bit. -/
def execToCy (i : Instr) (f : Bool → Bool → Bool) (l : BitLoc) (bit : BitVec 3) (s : State) : Res State := do
  let (v, t) ← loadBitByte l s
  retire i s (t.setCy (f (pswCY s.psw) (v.getLsbD bit.toNat))) false

/-- The forms whose destination is a bit (R272, R276, R277): the bit takes `b`; a PSW.bit form sets `IntInhibit`. -/
def execToBit (i : Instr) (b : Bool) (l : BitLoc) (bit : BitVec 3) (s : State) : Res State := do
  let t ← modifyBit (nextPc i s) l bit b s
  retire i s t (isPswBit l)

/-- CALL, CALLT: stacks `next` under a 00H byte and goes to the target (`46_call_ret_stack.md` R290). -/
def callTo (i : Instr) (target : Addr) (s : State) : Res State := do
  let t ← pushing (nextPc i s) [-1, -2, -3, -4] (push4 (nextPc i s) 0x00) s
  .ok (finish s t target false)

/-- A conditional branch (`47_branch_skip.md` R325 to R330). -/
def branchIf (i : Instr) (cond : Bool) (disp : Byte) (s : State) : Res State :=
  if cond then branchTo s s (rel8 i s disp) false else retire i s s false

/-- A conditional skip in one step (R334): the instruction at `next` is fetched and decoded for its length only. -/
def skipIf (i : Instr) (cond : Bool) (s : State) : Res State :=
  if cond then
    if crosses s.product s.pc.toNat (nextPc i s).toNat then .error .fetchProhibited
    else do
      let (j, n) ← fetchAt s (nextPc i s).toNat
      if j = .prefixAlone then .error .illegalEncoding
      else
        let target := nextPc i s + BitVec.ofNat 20 n
        if crosses s.product s.pc.toNat target.toNat then .error .fetchProhibited
        else .ok (finish s s target false)
  else retire i s s true

end Sys2Proof.Machine
end

