-- ==== Sys2Proof/Machine/Cycle.lean ====
section
/-! DEFINITION. One step of the machine over the meaning of an instruction (`60_exceptions.md` R360), and placing an
instruction where the next step fetches. `Step.lean` gives them `exec`. -/

namespace Sys2Proof.Machine

/-- Run mode: fetch and decode at PC, then the instruction's meaning (`20_memory.md` R76, R88: from memory as it is when the
instruction starts). The requests have passed one boundary. -/
def runInstr (ex : Instr → State → Host.Outcome State Fault Refusal) (s : State) : Host.Outcome State Fault Refusal :=
  match fetchAt s s.pc.toNat with
  | .ok (i, _) => ex i s.tick
  | .error f => .fault f

/-- HALT or STOP mode: no instruction runs; a maskable request may end the mode without entry while IE = 0 (`60_exceptions.md` R384). -/
def standby (s : State) : State := if wakes s then { s.tick with mode := .run } else s.tick

/-- One step (R360): the reset event where `Reset` arrives at this boundary (R374, `70_reset_and_hazards.md` R400; when it
does is the host's choice, in `resets`, to which no step adds, log 12); else the acceptance of the first acceptable request
(R366, R370); else one instruction, or nothing in HALT or STOP mode. -/
def stepWith (ex : Instr → State → Host.Outcome State Fault Refusal) (s : State) : Host.Outcome State Fault Refusal :=
  if s.resetNow then outcome (takeReset s)
  else
    match pickRequest s s.pending with
    | some (q, rest) => outcome (acceptRequest q rest s)
    | none =>
      match s.mode with
      | .run => runInstr ex s
      | .halt => .next (standby s)
      | .stop => .next (standby s)

/-- Writes bytes at rising addresses. -/
def placeBytes : Nat → List Byte → Memory → Memory
  | _, [], m => m
  | a, b :: bs, m => placeBytes (a + 1) bs (memWrite a b m)

/-- The five bytes from PC lie in one fetch region. -/
def fetchWindowOk (s : State) : Bool :=
  match fetchRegion s.product s.pc.toNat with
  | some r => [1, 2, 3, 4].all fun k => decide (fetchRegion s.product (s.pc.toNat + k) = some r)
  | none => false

/-- `s` with the instruction at the place of the next fetch: at PC, or at 00000H where no instruction can be fetched at
PC; in Run mode, with no reset and no request to accept (log 3). -/
def placeInstr (s : State) (nbits w : Nat) : State :=
  let pc : Addr := if fetchWindowOk s then s.pc else 0
  { s with
    pc := pc
    mem := placeBytes pc.toNat (tableBytes nbits w) s.mem
    mode := .run
    resets := if s.resetNow then [] else s.resets
    pending := if (pickRequest s s.pending).isSome then [] else s.pending }

end Sys2Proof.Machine
end

