-- ==== Sys2Proof/Machine/Alu16.lean ====
section
/-! DEFINITION. The meanings of the 16-bit operations and of the multiply: ADDW, SUBW, CMPW, MULU (`43_alu16_mul.md`) and
ADDW SP, SUBW SP (`46_call_ret_stack.md` R306, R307). -/

namespace Sys2Proof.Machine

/-- `ADDW AX, src` (R231). -/
def execAddw (o : AluWOp) (s : State) : Host.Outcome State Fault Refusal := outcome (execAluW (.addw o) add16 true o s)

/-- `SUBW AX, src` (R232). -/
def execSubw (o : AluWOp) (s : State) : Host.Outcome State Fault Refusal := outcome (execAluW (.subw o) sub16 true o s)

/-- `CMPW AX, src` (R233): the flags of SUBW; AX stays. -/
def execCmpw (o : AluWOp) (s : State) : Host.Outcome State Fault Refusal := outcome (execAluW (.cmpw o) sub16 false o s)

/-- `ADDW SP, #byte` (R306): 16-bit wrap, bit 0 cleared, no flag. -/
def execAddwSp (data : Byte) (s : State) : Host.Outcome State Fault Refusal :=
  outcome (retire (.addwSp data) s (s.setSp (s.sp + data.zeroExtend 16)) false)

/-- `SUBW SP, #byte` (R307). -/
def execSubwSp (data : Byte) (s : State) : Host.Outcome State Fault Refusal :=
  outcome (retire (.subwSp data) s (s.setSp (s.sp - data.zeroExtend 16)) false)

/-- `MULU X` (R234): `AX <- A * X`, unsigned; no flag. -/
def execMulu (s : State) : Host.Outcome State Fault Refusal :=
  outcome (retire .mulu s
    (s.setR16 s.bank .ax (BitVec.ofNat 16 ((s.r8 s.bank .a).toNat * (s.r8 s.bank .x).toNat))) false)

end Sys2Proof.Machine
end

