-- ==== Sys2Proof/Machine/Alu8.lean ====
section
/-! DEFINITION. The meanings of the 8-bit operations: ADD, ADDC, SUB, SUBC, AND, OR, XOR, CMP, CMP0, CMPS (`42_alu8.md`). -/

namespace Sys2Proof.Machine

/-- `ADD dst, src` (R201). -/
def execAdd (o : AluOp) (s : State) : Host.Outcome State Fault Refusal := outcome (execAlu (.add o) aluAdd true o s)

/-- `ADDC dst, src` (R202): CY as it was before the instruction. -/
def execAddc (o : AluOp) (s : State) : Host.Outcome State Fault Refusal := outcome (execAlu (.addc o) aluAddc true o s)

/-- `SUB dst, src` (R203). -/
def execSub (o : AluOp) (s : State) : Host.Outcome State Fault Refusal := outcome (execAlu (.sub o) aluSub true o s)

/-- `SUBC dst, src` (R204). -/
def execSubc (o : AluOp) (s : State) : Host.Outcome State Fault Refusal := outcome (execAlu (.subc o) aluSubc true o s)

/-- `AND dst, src` (R205). -/
def execAnd (o : AluOp) (s : State) : Host.Outcome State Fault Refusal := outcome (execAlu (.and o) aluAnd true o s)

/-- `OR dst, src` (R206). -/
def execOr (o : AluOp) (s : State) : Host.Outcome State Fault Refusal := outcome (execAlu (.or o) aluOr true o s)

/-- `XOR dst, src` (R207). -/
def execXor (o : AluOp) (s : State) : Host.Outcome State Fault Refusal := outcome (execAlu (.xor o) aluXor true o s)

/-- `CMP dst, src` (R208): the flags of SUB; nothing is written. -/
def execCmp (o : AluOp) (s : State) : Host.Outcome State Fault Refusal := outcome (execAlu (.cmp o) aluSub false o s)

/-- `CMP0 r` (R209). -/
def execCmp0R (r : Reg8) (s : State) : Host.Outcome State Fault Refusal :=
  outcome (retire (.cmp0R r) s (s.setPsw (flagsCmp0 s.psw (s.r8 s.bank r))) false)

/-- `CMP0 mem` (R209). -/
def execCmp0M (m : MemOp) (s : State) : Host.Outcome State Fault Refusal :=
  outcome do
    let (v, t) ← loadByte m s
    retire (.cmp0M m) s (t.setPsw (flagsCmp0 t.psw v)) false

/-- `CMPS X, [HL+byte]` (R210). -/
def execCmps (es : Bool) (off : Byte) (s : State) : Host.Outcome State Fault Refusal :=
  outcome do
    let (v, t) ← loadByte (.hlOff es off) s
    retire (.cmps es off) s (t.setPsw (flagsCmps t.psw (s.r8 s.bank .a) (s.r8 s.bank .x) v)) false

end Sys2Proof.Machine
end

