-- ==== Sys2Proof/Machine/Bit.lean ====
section
/-! DEFINITION. The meanings of the bit manipulation instructions: MOV1, AND1, OR1, XOR1, SET1, CLR1, NOT1 (`45_bit.md`). -/

namespace Sys2Proof.Machine

/-- `MOV1 CY, src` (R271). -/
def execMov1Cy (loc : BitLoc) (bit : BitVec 3) (s : State) : Host.Outcome State Fault Refusal :=
  outcome (execToCy (.mov1Cy loc bit) (fun _ b => b) loc bit s)

/-- `MOV1 dst, CY` (R272). -/
def execMov1Bit (loc : BitLoc) (bit : BitVec 3) (s : State) : Host.Outcome State Fault Refusal :=
  outcome (execToBit (.mov1Bit loc bit) (pswCY s.psw) loc bit s)

/-- `AND1 CY, src` (R273). -/
def execAnd1 (loc : BitLoc) (bit : BitVec 3) (s : State) : Host.Outcome State Fault Refusal :=
  outcome (execToCy (.and1 loc bit) (fun c b => c && b) loc bit s)

/-- `OR1 CY, src` (R274). -/
def execOr1 (loc : BitLoc) (bit : BitVec 3) (s : State) : Host.Outcome State Fault Refusal :=
  outcome (execToCy (.or1 loc bit) (fun c b => c || b) loc bit s)

/-- `XOR1 CY, src` (R275). -/
def execXor1 (loc : BitLoc) (bit : BitVec 3) (s : State) : Host.Outcome State Fault Refusal :=
  outcome (execToCy (.xor1 loc bit) (fun c b => c ^^ b) loc bit s)

/-- `SET1 dst` (R276). -/
def execSet1 (loc : BitLoc) (bit : BitVec 3) (s : State) : Host.Outcome State Fault Refusal :=
  outcome (execToBit (.set1 loc bit) true loc bit s)

/-- `CLR1 dst` (R277). -/
def execClr1 (loc : BitLoc) (bit : BitVec 3) (s : State) : Host.Outcome State Fault Refusal :=
  outcome (execToBit (.clr1 loc bit) false loc bit s)

/-- `SET1 CY` (R278). -/
def execSet1Cy (s : State) : Host.Outcome State Fault Refusal :=
  outcome (retire .set1Cy s (s.setCy true) false)

/-- `CLR1 CY` (R279). -/
def execClr1Cy (s : State) : Host.Outcome State Fault Refusal :=
  outcome (retire .clr1Cy s (s.setCy false) false)

/-- `NOT1 CY` (R280). -/
def execNot1Cy (s : State) : Host.Outcome State Fault Refusal :=
  outcome (retire .not1Cy s (s.setCy (!pswCY s.psw)) false)

end Sys2Proof.Machine
end

