-- ==== Sys2Proof/Machine/Branch.lean ====
section
/-! DEFINITION. The meanings of the branch and skip instructions (`47_branch_skip.md`). -/

namespace Sys2Proof.Machine

/-- `BR AX` (R320): to `CS[3:0] : AX`. -/
def execBrAx (s : State) : Host.Outcome State Fault Refusal :=
  outcome (.ok (finish s s (addrOf (lo8 (s.r16 s.bank .ax)) (hi8 (s.r16 s.bank .ax)) s.cs) false))

/-- `BR $addr20` (R321). -/
def execBrRel8 (disp : Byte) (s : State) : Host.Outcome State Fault Refusal :=
  outcome (branchTo s s (rel8 (.brRel8 disp) s disp) false)

/-- `BR $!addr20` (R322). -/
def execBrRel16 (disp : Word) (s : State) : Host.Outcome State Fault Refusal :=
  outcome (branchTo s s (rel16 (.brRel16 disp) s disp) false)

/-- `BR !addr16` (R323). -/
def execBrAbs16 (addr : Word) (s : State) : Host.Outcome State Fault Refusal :=
  outcome (.ok (finish s s (abs16 addr) false))

/-- `BR !!addr20` (R324). -/
def execBrAbs20 (addr : Addr) (s : State) : Host.Outcome State Fault Refusal :=
  outcome (.ok (finish s s addr false))

/-- `BC $addr20` (R325): if CY = 1. -/
def execBc (disp : Byte) (s : State) : Host.Outcome State Fault Refusal :=
  outcome (branchIf (.bc disp) (pswCY s.psw) disp s)

/-- `BNC $addr20` (R326): if CY = 0. -/
def execBnc (disp : Byte) (s : State) : Host.Outcome State Fault Refusal :=
  outcome (branchIf (.bnc disp) (!pswCY s.psw) disp s)

/-- `BZ $addr20` (R327): if Z = 1. -/
def execBz (disp : Byte) (s : State) : Host.Outcome State Fault Refusal :=
  outcome (branchIf (.bz disp) (pswZ s.psw) disp s)

/-- `BNZ $addr20` (R328): if Z = 0. -/
def execBnz (disp : Byte) (s : State) : Host.Outcome State Fault Refusal :=
  outcome (branchIf (.bnz disp) (!pswZ s.psw) disp s)

/-- `BH $addr20` (R329): if (Z or CY) = 0. -/
def execBh (disp : Byte) (s : State) : Host.Outcome State Fault Refusal :=
  outcome (branchIf (.bh disp) (!(pswZ s.psw || pswCY s.psw)) disp s)

/-- `BNH $addr20` (R330): if (Z or CY) = 1. -/
def execBnh (disp : Byte) (s : State) : Host.Outcome State Fault Refusal :=
  outcome (branchIf (.bnh disp) (pswZ s.psw || pswCY s.psw) disp s)

/-- `BT bit, $addr20` (R331): one read of the byte; branches if the bit is 1. -/
def execBt (loc : BitLoc) (bit : BitVec 3) (disp : Byte) (s : State) : Host.Outcome State Fault Refusal :=
  outcome do
    let (v, t) ← loadBitByte loc s
    if v.getLsbD bit.toNat then branchTo s t (rel8 (.bt loc bit disp) s disp) false
    else retire (.bt loc bit disp) s t false

/-- `BF bit, $addr20` (R332): branches if the bit is 0. -/
def execBf (loc : BitLoc) (bit : BitVec 3) (disp : Byte) (s : State) : Host.Outcome State Fault Refusal :=
  outcome do
    let (v, t) ← loadBitByte loc s
    if v.getLsbD bit.toNat then retire (.bf loc bit disp) s t false
    else branchTo s t (rel8 (.bf loc bit disp) s disp) false

/-- The byte of a bit operand is written back with the bit cleared, after the read that found it set (R333). -/
def clearBit (next : Addr) (loc : BitLoc) (bit : BitVec 3) (v : Byte) (s t : State) : Res State :=
  match loc with
  | .a => .ok (t.setR8 s.bank .a (setBit8 v bit.toNat false))
  | .mem m => do
    let a ← byteAddr s m
    store8 next a (setBit8 v bit.toNat false) t

/-- `BTCLR bit, $addr20` (R333): one read; if the bit is 1, the whole byte is written back with the bit cleared and the
branch is taken; else nothing is written. The PSW.bit form sets `IntInhibit`, taken or not. -/
def execBtclr (loc : BitLoc) (bit : BitVec 3) (disp : Byte) (s : State) : Host.Outcome State Fault Refusal :=
  outcome do
    let (v, t) ← loadBitByte loc s
    if v.getLsbD bit.toNat then do
      let u ← clearBit (nextPc (.btclr loc bit disp) s) loc bit v s t
      branchTo s u (rel8 (.btclr loc bit disp) s disp) (isPswBit loc)
    else retire (.btclr loc bit disp) s t (isPswBit loc)

/-- `SKC` (R335): skips if CY = 1. -/
def execSkc (s : State) : Host.Outcome State Fault Refusal := outcome (skipIf .skc (pswCY s.psw) s)

/-- `SKNC` (R336): skips if CY = 0. -/
def execSknc (s : State) : Host.Outcome State Fault Refusal := outcome (skipIf .sknc (!pswCY s.psw) s)

/-- `SKZ` (R337): skips if Z = 1. -/
def execSkz (s : State) : Host.Outcome State Fault Refusal := outcome (skipIf .skz (pswZ s.psw) s)

/-- `SKNZ` (R338): skips if Z = 0. -/
def execSknz (s : State) : Host.Outcome State Fault Refusal := outcome (skipIf .sknz (!pswZ s.psw) s)

/-- `SKH` (R339): skips if (Z or CY) = 0. -/
def execSkh (s : State) : Host.Outcome State Fault Refusal :=
  outcome (skipIf .skh (!(pswZ s.psw || pswCY s.psw)) s)

/-- `SKNH` (R340): skips if (Z or CY) = 1. -/
def execSknh (s : State) : Host.Outcome State Fault Refusal :=
  outcome (skipIf .sknh (pswZ s.psw || pswCY s.psw) s)

end Sys2Proof.Machine
end

