-- ==== Sys2Proof/Machine/CallStack.lean ====
section
/-! DEFINITION. The meanings of the call, return and stack instructions: CALL, CALLT, BRK, RET, RETI, RETB, PUSH, POP
(`46_call_ret_stack.md`). -/

namespace Sys2Proof.Machine

/-- `CALL rp` (R290): to `CS[3:0] : rp`, read before any write. -/
def execCallR (rp : Reg16) (s : State) : Host.Outcome State Fault Refusal :=
  outcome (callTo (.callR rp) (addrOf (lo8 (s.r16 s.bank rp)) (hi8 (s.r16 s.bank rp)) s.cs) s)

/-- `CALL $!addr20` (R291): a relative branch as far as the fetch regions go (`20_memory.md` R77). -/
def execCallRel (disp : Word) (s : State) : Host.Outcome State Fault Refusal :=
  outcome do
    let t ← callTo (.callRel disp) (rel16 (.callRel disp) s disp) s
    branchTo s t t.pc false

/-- `CALL !addr16` (R292). -/
def execCallAbs16 (addr : Word) (s : State) : Host.Outcome State Fault Refusal :=
  outcome (callTo (.callAbs16 addr) (abs16 addr) s)

/-- `CALL !!addr20` (R293). -/
def execCallAbs20 (addr : Addr) (s : State) : Host.Outcome State Fault Refusal :=
  outcome (callTo (.callAbs20 addr) addr s)

/-- `CALLT [addr5]` (R294): the table word at 00080H + 2k is read as data before the frame is pushed. -/
def execCallt (k : BitVec 5) (s : State) : Host.Outcome State Fault Refusal :=
  outcome do
    let (t, s1) ← read16 (0x80 + 2 * k.toNat) s
    callTo (.callt k) (abs16 t) s1

/-- `BRK` (R295, `60_exceptions.md` R362): the shared entry with the vector at 0007EH and the address of the next
instruction; the frame is a store of the instruction (log 16). ISP, RBS and the flags stay. -/
def execBrk (s : State) : Host.Outcome State Fault Refusal :=
  outcome do
    let t ← pushing (nextPc .brk s) [-1, -2, -3, -4] (enterException 0x7E (nextPc .brk s)) s
    .ok (finish s t t.pc false)

/-- `RET` (R296): the byte at SP+3 is not read. -/
def execRet (s : State) : Host.Outcome State Fault Refusal :=
  outcome (if stackOk s [0, 1, 2] then do
      let a ← popAddr s
      .ok (finish s { s with sp := s.sp + 4 } a false)
    else .error .stackOutsideRam)

/-- `RETI` (R297). -/
def execReti (s : State) : Host.Outcome State Fault Refusal := outcome (returnFromException s)

/-- `RETB` (R298): the same state change as RETI (log 28). -/
def execRetb (s : State) : Host.Outcome State Fault Refusal := outcome (returnFromException s)

/-- `PUSH PSW` (R299). -/
def execPushPsw (s : State) : Host.Outcome State Fault Refusal :=
  outcome do
    let t ← pushing (nextPc .pushPsw s) [-1, -2] (push2 0x00 s.psw) s
    retire .pushPsw s t false

/-- `PUSH rp` (R300). -/
def execPushR (rp : Reg16) (s : State) : Host.Outcome State Fault Refusal :=
  outcome do
    let t ← pushing (nextPc (.pushR rp) s) [-1, -2] (push2 (s.r8 s.bank (pairLo rp)) (s.r8 s.bank (pairHi rp))) s
    retire (.pushR rp) s t false

/-- `POP PSW` (R301): the byte at SP is not used; sets `IntInhibit`. DESIGN CHOICE: the range check is on the whole frame that
PUSH PSW has made, the unused byte at SP with it (log 15). -/
def execPopPsw (s : State) : Host.Outcome State Fault Refusal :=
  outcome (if stackOk s [0, 1] then do
      let p ← popByte 1 s
      retire .popPsw s { s with sp := s.sp + 2, psw := p } true
    else .error .stackOutsideRam)

/-- `POP rp` (R302). -/
def execPopR (rp : Reg16) (s : State) : Host.Outcome State Fault Refusal :=
  outcome (if stackOk s [0, 1] then do
      let l ← popByte 0 s
      let h ← popByte 1 s
      retire (.popR rp) s ({ s with sp := s.sp + 2 }.setR16 s.bank rp (word l h)) false
    else .error .stackOutsideRam)

end Sys2Proof.Machine
end

