-- ==== Sys2Proof/Machine/Control.lean ====
section
/-! DEFINITION. The meanings of the CPU control instructions: SEL, NOP, EI, DI, HALT, STOP, and the row PREFIX
(`48_cpu_control.md`). -/

namespace Sys2Proof.Machine

/-- `SEL RBn` (R350): the bank is used from the next instruction on. -/
def execSel (n : BitVec 2) (s : State) : Host.Outcome State Fault Refusal :=
  outcome (retire (.sel n) s (s.setPsw (setRBS s.psw n)) false)

/-- `NOP` (R351). -/
def execNop (s : State) : Host.Outcome State Fault Refusal := outcome (retire .nop s s false)

/-- `EI` (R352): sets IE and `IntInhibit`. -/
def execEi (s : State) : Host.Outcome State Fault Refusal :=
  outcome (retire .ei s (s.setPsw (setIE s.psw true)) true)

/-- `DI` (R353): clears IE, sets `IntInhibit`. -/
def execDi (s : State) : Host.Outcome State Fault Refusal :=
  outcome (retire .di s (s.setPsw (setIE s.psw false)) true)

/-- `HALT` (R354). -/
def execHalt (s : State) : Host.Outcome State Fault Refusal :=
  outcome (retire .halt s { s with mode := .halt } false)

/-- `STOP` (R355). -/
def execStop (s : State) : Host.Outcome State Fault Refusal :=
  outcome (retire .stop s { s with mode := .stop } false)

/-- 11H with no ES form behind it is the fault `IllegalEncoding` (R356; log 13). -/
def execPrefixAlone (_s : State) : Host.Outcome State Fault Refusal := .fault .illegalEncoding

end Sys2Proof.Machine
end

