-- ==== Sys2Proof/Machine/IncShift.lean ====
section
/-! DEFINITION. The meanings of the increment, decrement, shift and rotate instructions (`44_incdec_shift_rot.md`). -/

namespace Sys2Proof.Machine

/-- `INC r` (R241). -/
def execIncR (r : Reg8) (s : State) : Host.Outcome State Fault Refusal :=
  outcome (retire (.incR r) s
    ((s.setR8 s.bank r (incByte s.psw (s.r8 s.bank r)).1).setPsw (incByte s.psw (s.r8 s.bank r)).2) false)

/-- `INC mem` (R241): read-modify-write, then Z and AC; where the byte is PSW itself, the flags are written after the store
(log 36). -/
def execIncM (m : MemOp) (s : State) : Host.Outcome State Fault Refusal :=
  outcome do
    let (v, t) ← modifyByte (nextPc (.incM m) s) m (fun v => ((incByte s.psw v).1, v)) s
    retire (.incM m) s (t.setPsw (incByte t.psw v).2) false

/-- `DEC r` (R242). -/
def execDecR (r : Reg8) (s : State) : Host.Outcome State Fault Refusal :=
  outcome (retire (.decR r) s
    ((s.setR8 s.bank r (decByte s.psw (s.r8 s.bank r)).1).setPsw (decByte s.psw (s.r8 s.bank r)).2) false)

/-- `DEC mem` (R242). -/
def execDecM (m : MemOp) (s : State) : Host.Outcome State Fault Refusal :=
  outcome do
    let (v, t) ← modifyByte (nextPc (.decM m) s) m (fun v => ((decByte s.psw v).1, v)) s
    retire (.decM m) s (t.setPsw (decByte t.psw v).2) false

/-- `INCW rp` (R243): no flag. -/
def execIncwR (rp : Reg16) (s : State) : Host.Outcome State Fault Refusal :=
  outcome (retire (.incwR rp) s (s.setR16 s.bank rp (s.r16 s.bank rp + 1)) false)

/-- `INCW mem` (R243). -/
def execIncwM (m : MemOp) (s : State) : Host.Outcome State Fault Refusal :=
  outcome do
    let t ← modifyWord (nextPc (.incwM m) s) m (· + 1) s
    retire (.incwM m) s t false

/-- `DECW rp` (R244): no flag. -/
def execDecwR (rp : Reg16) (s : State) : Host.Outcome State Fault Refusal :=
  outcome (retire (.decwR rp) s (s.setR16 s.bank rp (s.r16 s.bank rp - 1)) false)

/-- `DECW mem` (R244). -/
def execDecwM (m : MemOp) (s : State) : Host.Outcome State Fault Refusal :=
  outcome do
    let t ← modifyWord (nextPc (.decwM m) s) m (· - 1) s
    retire (.decwM m) s t false

/-- `SHR A, cnt` (R245). -/
def execShr (cnt : BitVec 4) (s : State) : Host.Outcome State Fault Refusal :=
  outcome (execShift8 (.shr cnt) .a (shrByte (s.r8 s.bank .a) cnt.toNat) s)

/-- `SHRW AX, cnt` (R246). -/
def execShrw (cnt : BitVec 4) (s : State) : Host.Outcome State Fault Refusal :=
  outcome (execShift16 (.shrw cnt) .ax (shrWord (s.r16 s.bank .ax) cnt.toNat) s)

/-- `SHL A/B/C, cnt` (R247). -/
def execShl (r : Reg8) (cnt : BitVec 4) (s : State) : Host.Outcome State Fault Refusal :=
  outcome (execShift8 (.shl r cnt) r (shlByte (s.r8 s.bank r) cnt.toNat) s)

/-- `SHLW AX/BC, cnt` (R248). -/
def execShlw (rp : Reg16) (cnt : BitVec 4) (s : State) : Host.Outcome State Fault Refusal :=
  outcome (execShift16 (.shlw rp cnt) rp (shlWord (s.r16 s.bank rp) cnt.toNat) s)

/-- `SAR A, cnt` (R249). -/
def execSar (cnt : BitVec 4) (s : State) : Host.Outcome State Fault Refusal :=
  outcome (execShift8 (.sar cnt) .a (sarByte (s.r8 s.bank .a) cnt.toNat) s)

/-- `SARW AX, cnt` (R250). -/
def execSarw (cnt : BitVec 4) (s : State) : Host.Outcome State Fault Refusal :=
  outcome (execShift16 (.sarw cnt) .ax (sarWord (s.r16 s.bank .ax) cnt.toNat) s)

/-- `ROR A, 1` (R251). -/
def execRor (s : State) : Host.Outcome State Fault Refusal :=
  outcome (execShift8 .ror .a (rorByte (s.r8 s.bank .a)) s)

/-- `ROL A, 1` (R252). -/
def execRol (s : State) : Host.Outcome State Fault Refusal :=
  outcome (execShift8 .rol .a (rolByte (s.r8 s.bank .a)) s)

/-- `RORC A, 1` (R253). -/
def execRorc (s : State) : Host.Outcome State Fault Refusal :=
  outcome (execShift8 .rorc .a (rorcByte (s.r8 s.bank .a) (pswCY s.psw)) s)

/-- `ROLC A, 1` (R254). -/
def execRolc (s : State) : Host.Outcome State Fault Refusal :=
  outcome (execShift8 .rolc .a (rolcByte (s.r8 s.bank .a) (pswCY s.psw)) s)

/-- `ROLWC AX, 1`, `ROLWC BC, 1` (R255). -/
def execRolwc (rp : Reg16) (s : State) : Host.Outcome State Fault Refusal :=
  outcome (execShift16 (.rolwc rp) rp (rolcWord (s.r16 s.bank rp) (pswCY s.psw)) s)

end Sys2Proof.Machine
end

