-- ==== Sys2Proof/Machine/Mov16.lean ====
section
/-! DEFINITION. The meanings of the 16-bit transfer instructions: MOVW, XCHW, ONEW, CLRW (`41_mov16.md`; the SP forms of
MOVW are the sfrp and !addr16 forms, `46_call_ret_stack.md` R303 to R305). -/

namespace Sys2Proof.Machine

/-- `MOVW rp, #word` (R181). -/
def execMovwRI (rp : Reg16) (data : Word) (s : State) : Host.Outcome State Fault Refusal :=
  outcome (retire (.movwRI rp data) s (s.setR16 s.bank rp data) false)

/-- `MOVW saddrp, #word`, `MOVW sfrp, #word` (R182). -/
def execMovwMI (m : MemOp) (data : Word) (s : State) : Host.Outcome State Fault Refusal :=
  outcome do
    let t ← storeWord (nextPc (.movwMI m data) s) m data s
    retire (.movwMI m data) s t false

/-- `MOVW AX, rp` (R183). -/
def execMovwAxR (rp : Reg16) (s : State) : Host.Outcome State Fault Refusal :=
  outcome (retire (.movwAxR rp) s (s.setR16 s.bank .ax (s.r16 s.bank rp)) false)

/-- `MOVW rp, AX` (R183). -/
def execMovwRAx (rp : Reg16) (s : State) : Host.Outcome State Fault Refusal :=
  outcome (retire (.movwRAx rp) s (s.setR16 s.bank rp (s.r16 s.bank .ax)) false)

/-- `MOVW AX, mem` (R184). -/
def execMovwAxM (m : MemOp) (s : State) : Host.Outcome State Fault Refusal :=
  outcome do
    let (v, t) ← loadWord m s
    retire (.movwAxM m) s (t.setR16 s.bank .ax v) false

/-- `MOVW mem, AX` (R185). -/
def execMovwMAx (m : MemOp) (s : State) : Host.Outcome State Fault Refusal :=
  outcome do
    let t ← storeWord (nextPc (.movwMAx m) s) m (s.r16 s.bank .ax) s
    retire (.movwMAx m) s t false

/-- `MOVW BC/DE/HL, mem` (R186). -/
def execMovwRM (rp : Reg16) (m : MemOp) (s : State) : Host.Outcome State Fault Refusal :=
  outcome do
    let (v, t) ← loadWord m s
    retire (.movwRM rp m) s (t.setR16 s.bank rp v) false

/-- `XCHW AX, rp` (R187). -/
def execXchw (rp : Reg16) (s : State) : Host.Outcome State Fault Refusal :=
  outcome (retire (.xchw rp) s ((s.setR16 s.bank .ax (s.r16 s.bank rp)).setR16 s.bank rp (s.r16 s.bank .ax)) false)

/-- `ONEW AX`, `ONEW BC` (R188). -/
def execOnew (rp : Reg16) (s : State) : Host.Outcome State Fault Refusal :=
  outcome (retire (.onew rp) s (s.setR16 s.bank rp 0x0001) false)

/-- `CLRW AX`, `CLRW BC` (R189). -/
def execClrw (rp : Reg16) (s : State) : Host.Outcome State Fault Refusal :=
  outcome (retire (.clrw rp) s (s.setR16 s.bank rp 0x0000) false)

end Sys2Proof.Machine
end

