-- ==== Sys2Proof/Machine/Mov8.lean ====
section
/-! DEFINITION. The meanings of the 8-bit transfer instructions: MOV, XCH, ONEB, CLRB, MOVS (`40_mov8.md`). -/

namespace Sys2Proof.Machine

/-- `MOV r, #byte` (R141). -/
def execMovRI (r : Reg8) (data : Byte) (s : State) : Host.Outcome State Fault Refusal :=
  outcome (retire (.movRI r data) s (s.setR8 s.bank r data) false)

/-- `MOV mem, #byte` (R142). With PSW as the `sfr` operand it sets `IntInhibit` (R147). -/
def execMovMI (m : MemOp) (data : Byte) (s : State) : Host.Outcome State Fault Refusal :=
  outcome do
    let t ← storeByte (nextPc (.movMI m data) s) m data s
    retire (.movMI m data) s t (isPsw m)

/-- `MOV A, r` (R143). -/
def execMovAR (r : Reg8) (s : State) : Host.Outcome State Fault Refusal :=
  outcome (retire (.movAR r) s (s.setR8 s.bank .a (s.r8 s.bank r)) false)

/-- `MOV r, A` (R144). -/
def execMovRA (r : Reg8) (s : State) : Host.Outcome State Fault Refusal :=
  outcome (retire (.movRA r) s (s.setR8 s.bank r (s.r8 s.bank .a)) false)

/-- `MOV A, mem` (R145). -/
def execMovAM (m : MemOp) (s : State) : Host.Outcome State Fault Refusal :=
  outcome do
    let (v, t) ← loadByte m s
    retire (.movAM m) s (t.setR8 s.bank .a v) false

/-- `MOV mem, A` (R146). With PSW as the `sfr` operand it sets `IntInhibit` (R147). -/
def execMovMA (m : MemOp) (s : State) : Host.Outcome State Fault Refusal :=
  outcome do
    let t ← storeByte (nextPc (.movMA m) s) m (s.r8 s.bank .a) s
    retire (.movMA m) s t (isPsw m)

/-- `MOV X/B/C, mem` (R150). -/
def execMovRM (r : Reg8) (m : MemOp) (s : State) : Host.Outcome State Fault Refusal :=
  outcome do
    let (v, t) ← loadByte m s
    retire (.movRM r m) s (t.setR8 s.bank r v) false

/-- `MOV ES, #byte` (R148). -/
def execMovEsI (data : Byte) (s : State) : Host.Outcome State Fault Refusal :=
  outcome (retire (.movEsI data) s (s.setEs data) false)

/-- `MOV ES, saddr` (R148). -/
def execMovEsSaddr (off : Byte) (s : State) : Host.Outcome State Fault Refusal :=
  outcome do
    let (v, t) ← loadByte (.saddr off) s
    retire (.movEsSaddr off) s (t.setEs v) false

/-- `XCH A, r` (R151). -/
def execXchAR (r : Reg8) (s : State) : Host.Outcome State Fault Refusal :=
  outcome (retire (.xchAR r) s ((s.setR8 s.bank .a (s.r8 s.bank r)).setR8 s.bank r (s.r8 s.bank .a)) false)

/-- `XCH A, mem` (R152): one read, one write of A, then A takes the byte read. -/
def execXchAM (m : MemOp) (s : State) : Host.Outcome State Fault Refusal :=
  outcome do
    let (v, t) ← modifyByte (nextPc (.xchAM m) s) m (fun v => (s.r8 s.bank .a, v)) s
    retire (.xchAM m) s (t.setR8 s.bank .a v) false

/-- `ONEB r` (R153). -/
def execOnebR (r : Reg8) (s : State) : Host.Outcome State Fault Refusal :=
  outcome (retire (.onebR r) s (s.setR8 s.bank r 0x01) false)

/-- `ONEB mem` (R153). -/
def execOnebM (m : MemOp) (s : State) : Host.Outcome State Fault Refusal :=
  outcome do
    let t ← storeByte (nextPc (.onebM m) s) m 0x01 s
    retire (.onebM m) s t false

/-- `CLRB r` (R154). -/
def execClrbR (r : Reg8) (s : State) : Host.Outcome State Fault Refusal :=
  outcome (retire (.clrbR r) s (s.setR8 s.bank r 0x00) false)

/-- `CLRB mem` (R154). -/
def execClrbM (m : MemOp) (s : State) : Host.Outcome State Fault Refusal :=
  outcome do
    let t ← storeByte (nextPc (.clrbM m) s) m 0x00 s
    retire (.clrbM m) s t false

/-- `MOVS [HL+byte], X` (R155): the flags by X and A as they were before the instruction, written after the store (log 36). -/
def execMovs (es : Bool) (off : Byte) (s : State) : Host.Outcome State Fault Refusal :=
  outcome do
    let t ← storeByte (nextPc (.movs es off) s) (.hlOff es off) (s.r8 s.bank .x) s
    retire (.movs es off) s (t.setPsw (flagsMovs t.psw (s.r8 s.bank .a) (s.r8 s.bank .x))) false

end Sys2Proof.Machine
end

