-- ==== Sys2Proof/Machine/Dispatch.lean ====
section
/-! DEFINITION. The meaning of each instruction. -/

namespace Sys2Proof.Machine

def exec (i : Instr) (s : State) : Host.Outcome State Fault Refusal :=
  match i with
  | .movRI r data => Sys2Proof.Machine.execMovRI r data s
  | .movMI m data => Sys2Proof.Machine.execMovMI m data s
  | .movAR r => Sys2Proof.Machine.execMovAR r s
  | .movRA r => Sys2Proof.Machine.execMovRA r s
  | .movAM m => Sys2Proof.Machine.execMovAM m s
  | .movMA m => Sys2Proof.Machine.execMovMA m s
  | .movRM r m => Sys2Proof.Machine.execMovRM r m s
  | .movEsI data => Sys2Proof.Machine.execMovEsI data s
  | .movEsSaddr off => Sys2Proof.Machine.execMovEsSaddr off s
  | .xchAR r => Sys2Proof.Machine.execXchAR r s
  | .xchAM m => Sys2Proof.Machine.execXchAM m s
  | .onebR r => Sys2Proof.Machine.execOnebR r s
  | .onebM m => Sys2Proof.Machine.execOnebM m s
  | .clrbR r => Sys2Proof.Machine.execClrbR r s
  | .clrbM m => Sys2Proof.Machine.execClrbM m s
  | .movs es off => Sys2Proof.Machine.execMovs es off s
  | .movwRI rp data => Sys2Proof.Machine.execMovwRI rp data s
  | .movwMI m data => Sys2Proof.Machine.execMovwMI m data s
  | .movwAxR rp => Sys2Proof.Machine.execMovwAxR rp s
  | .movwRAx rp => Sys2Proof.Machine.execMovwRAx rp s
  | .movwAxM m => Sys2Proof.Machine.execMovwAxM m s
  | .movwMAx m => Sys2Proof.Machine.execMovwMAx m s
  | .movwRM rp m => Sys2Proof.Machine.execMovwRM rp m s
  | .xchw rp => Sys2Proof.Machine.execXchw rp s
  | .onew rp => Sys2Proof.Machine.execOnew rp s
  | .clrw rp => Sys2Proof.Machine.execClrw rp s
  | .add o => Sys2Proof.Machine.execAdd o s
  | .addc o => Sys2Proof.Machine.execAddc o s
  | .sub o => Sys2Proof.Machine.execSub o s
  | .subc o => Sys2Proof.Machine.execSubc o s
  | .and o => Sys2Proof.Machine.execAnd o s
  | .or o => Sys2Proof.Machine.execOr o s
  | .xor o => Sys2Proof.Machine.execXor o s
  | .cmp o => Sys2Proof.Machine.execCmp o s
  | .cmp0R r => Sys2Proof.Machine.execCmp0R r s
  | .cmp0M m => Sys2Proof.Machine.execCmp0M m s
  | .cmps es off => Sys2Proof.Machine.execCmps es off s
  | .addw o => Sys2Proof.Machine.execAddw o s
  | .subw o => Sys2Proof.Machine.execSubw o s
  | .cmpw o => Sys2Proof.Machine.execCmpw o s
  | .addwSp data => Sys2Proof.Machine.execAddwSp data s
  | .subwSp data => Sys2Proof.Machine.execSubwSp data s
  | .mulu => Sys2Proof.Machine.execMulu s
  | .incR r => Sys2Proof.Machine.execIncR r s
  | .incM m => Sys2Proof.Machine.execIncM m s
  | .decR r => Sys2Proof.Machine.execDecR r s
  | .decM m => Sys2Proof.Machine.execDecM m s
  | .incwR rp => Sys2Proof.Machine.execIncwR rp s
  | .incwM m => Sys2Proof.Machine.execIncwM m s
  | .decwR rp => Sys2Proof.Machine.execDecwR rp s
  | .decwM m => Sys2Proof.Machine.execDecwM m s
  | .shr cnt => Sys2Proof.Machine.execShr cnt s
  | .shrw cnt => Sys2Proof.Machine.execShrw cnt s
  | .shl r cnt => Sys2Proof.Machine.execShl r cnt s
  | .shlw rp cnt => Sys2Proof.Machine.execShlw rp cnt s
  | .sar cnt => Sys2Proof.Machine.execSar cnt s
  | .sarw cnt => Sys2Proof.Machine.execSarw cnt s
  | .ror => Sys2Proof.Machine.execRor s
  | .rol => Sys2Proof.Machine.execRol s
  | .rorc => Sys2Proof.Machine.execRorc s
  | .rolc => Sys2Proof.Machine.execRolc s
  | .rolwc rp => Sys2Proof.Machine.execRolwc rp s
  | .mov1Cy loc bit => Sys2Proof.Machine.execMov1Cy loc bit s
  | .mov1Bit loc bit => Sys2Proof.Machine.execMov1Bit loc bit s
  | .and1 loc bit => Sys2Proof.Machine.execAnd1 loc bit s
  | .or1 loc bit => Sys2Proof.Machine.execOr1 loc bit s
  | .xor1 loc bit => Sys2Proof.Machine.execXor1 loc bit s
  | .set1 loc bit => Sys2Proof.Machine.execSet1 loc bit s
  | .clr1 loc bit => Sys2Proof.Machine.execClr1 loc bit s
  | .set1Cy => Sys2Proof.Machine.execSet1Cy s
  | .clr1Cy => Sys2Proof.Machine.execClr1Cy s
  | .not1Cy => Sys2Proof.Machine.execNot1Cy s
  | .callR rp => Sys2Proof.Machine.execCallR rp s
  | .callRel disp => Sys2Proof.Machine.execCallRel disp s
  | .callAbs16 addr => Sys2Proof.Machine.execCallAbs16 addr s
  | .callAbs20 addr => Sys2Proof.Machine.execCallAbs20 addr s
  | .callt k => Sys2Proof.Machine.execCallt k s
  | .brk => Sys2Proof.Machine.execBrk s
  | .ret => Sys2Proof.Machine.execRet s
  | .reti => Sys2Proof.Machine.execReti s
  | .retb => Sys2Proof.Machine.execRetb s
  | .pushPsw => Sys2Proof.Machine.execPushPsw s
  | .pushR rp => Sys2Proof.Machine.execPushR rp s
  | .popPsw => Sys2Proof.Machine.execPopPsw s
  | .popR rp => Sys2Proof.Machine.execPopR rp s
  | .brAx => Sys2Proof.Machine.execBrAx s
  | .brRel8 disp => Sys2Proof.Machine.execBrRel8 disp s
  | .brRel16 disp => Sys2Proof.Machine.execBrRel16 disp s
  | .brAbs16 addr => Sys2Proof.Machine.execBrAbs16 addr s
  | .brAbs20 addr => Sys2Proof.Machine.execBrAbs20 addr s
  | .bc disp => Sys2Proof.Machine.execBc disp s
  | .bnc disp => Sys2Proof.Machine.execBnc disp s
  | .bz disp => Sys2Proof.Machine.execBz disp s
  | .bnz disp => Sys2Proof.Machine.execBnz disp s
  | .bh disp => Sys2Proof.Machine.execBh disp s
  | .bnh disp => Sys2Proof.Machine.execBnh disp s
  | .bt loc bit disp => Sys2Proof.Machine.execBt loc bit disp s
  | .bf loc bit disp => Sys2Proof.Machine.execBf loc bit disp s
  | .btclr loc bit disp => Sys2Proof.Machine.execBtclr loc bit disp s
  | .skc => Sys2Proof.Machine.execSkc s
  | .sknc => Sys2Proof.Machine.execSknc s
  | .skz => Sys2Proof.Machine.execSkz s
  | .sknz => Sys2Proof.Machine.execSknz s
  | .skh => Sys2Proof.Machine.execSkh s
  | .sknh => Sys2Proof.Machine.execSknh s
  | .sel n => Sys2Proof.Machine.execSel n s
  | .nop => Sys2Proof.Machine.execNop s
  | .ei => Sys2Proof.Machine.execEi s
  | .di => Sys2Proof.Machine.execDi s
  | .halt => Sys2Proof.Machine.execHalt s
  | .stop => Sys2Proof.Machine.execStop s
  | .prefixAlone => Sys2Proof.Machine.execPrefixAlone s

end Sys2Proof.Machine
end

