-- ==== Sys2Proof/Machine/Step.lean ====
section
/-! DEFINITION. The step of the machine, and the placing of an instruction for the host's questions. Both are `Cycle.lean`'s
operations with `exec` of `Dispatch.lean`. -/

namespace Sys2Proof.Machine

/-- One step of the machine (`60_exceptions.md` R360). -/
def step (s : State) : Host.Outcome State Fault Refusal := stepWith exec s

/-- `s` with the instruction whose first `nbits` bits are `w` stored where `step` fetches next. -/
def State.withFetchWord (s : State) (nbits w : Nat) : State := placeInstr s nbits w

end Sys2Proof.Machine
end

