-- ==== Sys2Proof/Safety.lean ====
section
/-! DEFINITION. The terms in which claims about the machine are stated: the invariant, what a byte or word access does as a
relation (`20_memory.md` R73, R74), which addresses and which bits of PSW an instruction may change, which instructions
set `IntInhibit`, and what a safe run is. -/

namespace Sys2Proof.Machine

/-! ### The invariant -/

/-- The regions whose bytes are kept in the memory list: flash, external memory and RAM below the registers. -/
def isStorage (r : Region) : Bool := decide (r = .flash) || decide (r = .ram) || decide (r = .ext)

/-- What holds of every state that a run reaches. -/
structure State.Inv (s : State) : Prop where
  /-- The memory list is in its canonical form. -/
  memCanonical : memWf s.mem = true
  /-- Every listed byte lies where memory is (R60 to R63, R72). -/
  memStored : ∀ c ∈ s.mem, isStorage (region s.product c.1) = true
  /-- Bit 0 of SP is 0 (`10_state.md` R33). -/
  spEven : s.sp.getLsbD 0 = false
  /-- Bits 7-4 of ES are 0 (R41). -/
  esHigh : s.es.extractLsb' 4 4 = 0
  /-- Bits 7-4 of CS are 0 (R42). -/
  csHigh : s.cs.extractLsb' 4 4 = 0
  /-- Bits 7-1 of PMC are 0 (R44). -/
  pmcHigh : s.pmc.extractLsb' 1 7 = 0
  /-- PMC keeps its reset value until it is written (R44). -/
  pmcReset : s.pmcWritten = false → s.pmc = 0
  /-- `PmcSettle` says that PMC has been written (R48). -/
  settleWritten : s.pmcSettle = true → s.pmcWritten = true

/-! ### One access, as a relation -/

/-- `ByteRead s a v t`: a data read of the byte at `a` gives `v` and leaves `t` (`20_memory.md` R73). -/
inductive ByteRead (s : State) (a : Nat) (v : Byte) : State → Prop where
  /-- A CPU register, a general register, RAM, flash, external memory, or flash through the mirror: the byte that is there.
  The mirror cannot be read right after a PMC write (`10_state.md` R48). -/
  | stored (here : s.peek a = some v) (settled : region s.product a = .mirror → s.pmcSettle = false) :
      ByteRead s a v s
  /-- A device register: one `DevRead(a, 1)`, answered with a value (R70). -/
  | device (w : Word) (rest : List DevAnswer) (dev : region s.product a = .device)
      (ans : s.devIn = .value w :: rest) (low : v = lo8 w) :
      ByteRead s a v { s with devIn := rest, hostOut := .devRead a 1 :: s.hostOut }

/-- `ByteWritten s a v t`: a data write of `v` to the byte at `a` leaves `t` (R73). -/
inductive ByteWritten (s : State) (a : Nat) (v : Byte) : State → Prop where
  /-- RAM. -/
  | ram (here : region s.product a = .ram) : ByteWritten s a v { s with mem := memWrite a v s.mem }
  /-- External memory that takes writes (R72). -/
  | ext (here : region s.product a = .ext) (writable : s.product.extWritable = true) :
      ByteWritten s a v { s with mem := memWrite a v s.mem }
  /-- A general register (`10_state.md` R37). -/
  | reg (here : region s.product a = .regs) : ByteWritten s a v (s.setRegByte (a - 0xFFEE0) v)
  /-- SPL: bit 0 of SP becomes 0 (R33). -/
  | spl (here : a = 0xFFFF8) : ByteWritten s a v { s with sp := word v (hi8 s.sp) &&& 0xFFFE }
  /-- SPH. -/
  | sph (here : a = 0xFFFF9) : ByteWritten s a v { s with sp := word (lo8 s.sp) v &&& 0xFFFE }
  /-- PSW: all 8 bits (R31). -/
  | psw (here : a = 0xFFFFA) : ByteWritten s a v { s with psw := v }
  /-- CS: `value & 0FH` (R42). -/
  | cs (here : a = 0xFFFFC) : ByteWritten s a v { s with cs := v &&& 0x0F }
  /-- ES: `value & 0FH` (R41). -/
  | es (here : a = 0xFFFFD) : ByteWritten s a v { s with es := v &&& 0x0F }
  /-- PMC, once after reset: `value & 01H` (R44). -/
  | pmc (here : a = 0xFFFFE) (first : s.pmcWritten = false) :
      ByteWritten s a v { s with pmc := v &&& 0x01, pmcWritten := true }
  /-- A device register: one `DevWrite(a, 1, v)` that the device takes (R70). -/
  | device (w : Word) (rest : List DevAnswer) (dev : region s.product a = .device) (ans : s.devIn = .value w :: rest) :
      ByteWritten s a v { s with devIn := rest, hostOut := .devWrite a 1 (v.zeroExtend 16) :: s.hostOut }

/-- `WordRead s a v t`: a data read of the word at `a`: one device access where both bytes are a device's, else the low byte
at `a`, then the high byte at `a + 1` (R70, R74). -/
inductive WordRead (s : State) (a : Nat) : Word → State → Prop where
  | bytes (l h : Byte) (s1 t : State) (notDev : devWord s.product a = false) (low : ByteRead s a l s1)
      (high : ByteRead s1 (a + 1) h t) : WordRead s a (word l h) t
  | device (w : Word) (rest : List DevAnswer) (dev : devWord s.product a = true) (ans : s.devIn = .value w :: rest) :
      WordRead s a w { s with devIn := rest, hostOut := .devRead a 2 :: s.hostOut }

/-- `WordWritten s a v t`: a data write of the word `v` at `a`. -/
inductive WordWritten (s : State) (a : Nat) (v : Word) : State → Prop where
  | bytes (s1 t : State) (notDev : devWord s.product a = false) (low : ByteWritten s a (lo8 v) s1)
      (high : ByteWritten s1 (a + 1) (hi8 v) t) : WordWritten s a v t
  | device (w : Word) (rest : List DevAnswer) (dev : devWord s.product a = true) (ans : s.devIn = .value w :: rest) :
      WordWritten s a v { s with devIn := rest, hostOut := .devWrite a 2 v :: s.hostOut }

/-! ### Where one access stops -/

/-- `ByteReadFails s a f`: a data read of the byte at `a` stops with `f` (`20_memory.md` R73). -/
inductive ByteReadFails (s : State) (a : Nat) : Fault → Prop where
  /-- FFFFBH (`10_state.md` R43). -/
  | reserved (here : region s.product a = .reserved) : ByteReadFails s a .undefinedRead
  /-- A device that refuses, or has no answer left (R70, log 7). -/
  | device (dev : region s.product a = .device) (ans : ∀ w rest, s.devIn ≠ .value w :: rest) :
      ByteReadFails s a .deviceRefused
  /-- A byte of flash, RAM or external memory without a value (`10_state.md` R38, log 4). -/
  | unwritten (here : isStorage (region s.product a) = true) (none : memRead a s.mem = .none) :
      ByteReadFails s a .undefinedRead
  /-- The mirror, right after a PMC write (`10_state.md` R48). -/
  | tooEarly (here : region s.product a = .mirror) (settle : s.pmcSettle = true) : ByteReadFails s a .mirrorTooEarly
  /-- The mirror of a flash byte without a value. -/
  | unplaced (here : region s.product a = .mirror) (settled : s.pmcSettle = false)
      (within : mirrorSource s a ≤ s.product.flashTop) (none : memRead (mirrorSource s a) s.mem = .none) :
      ByteReadFails s a .undefinedRead
  /-- The mirror of an address above the flash (log 17). -/
  | beyondFlash (here : region s.product a = .mirror) (settled : s.pmcSettle = false)
      (beyond : s.product.flashTop < mirrorSource s a) : ByteReadFails s a .unmappedAccess
  /-- An address in no region (R67). -/
  | unmapped (here : region s.product a = .unmapped) : ByteReadFails s a .unmappedAccess

/-- `ByteWriteFails s a f`: a data write of the byte at `a` stops with `f` (R73), whatever the byte. -/
inductive ByteWriteFails (s : State) (a : Nat) : Fault → Prop where
  /-- FFFFBH (`10_state.md` R43). -/
  | reserved (here : region s.product a = .reserved) : ByteWriteFails s a .reservedWrite
  /-- Flash and the mirror (R62, R64). -/
  | readOnly (here : region s.product a = .flash ∨ region s.product a = .mirror) : ByteWriteFails s a .writeToReadOnly
  /-- An address in no region (R67). -/
  | unmapped (here : region s.product a = .unmapped) : ByteWriteFails s a .unmappedAccess
  /-- A device that refuses, or has no answer left (R70, log 7). -/
  | device (dev : region s.product a = .device) (ans : ∀ w rest, s.devIn ≠ .value w :: rest) :
      ByteWriteFails s a .deviceRefused
  /-- External memory that takes no writes (R72, log 18). -/
  | external (here : region s.product a = .ext) (closed : s.product.extWritable = false) :
      ByteWriteFails s a .deviceRefused
  /-- PMC, written before (`10_state.md` R44). -/
  | second (here : a = 0xFFFFE) (written : s.pmcWritten = true) : ByteWriteFails s a .pmcRewrite

/-- `WordReadFails s a f`: a data read of the word at `a` stops with `f`: at the one device access, at its low byte, or at
its high byte after the low one was read (R74). -/
inductive WordReadFails (s : State) (a : Nat) : Fault → Prop where
  | device (dev : devWord s.product a = true) (ans : ∀ w rest, s.devIn ≠ .value w :: rest) :
      WordReadFails s a .deviceRefused
  | low {f : Fault} (notDev : devWord s.product a = false) (fails : ByteReadFails s a f) : WordReadFails s a f
  | high {f : Fault} {l : Byte} {s1 : State} (notDev : devWord s.product a = false) (low : ByteRead s a l s1)
      (fails : ByteReadFails s1 (a + 1) f) : WordReadFails s a f

/-- `WordWriteFails s a v f`: a data write of the word `v` at `a` stops with `f`. -/
inductive WordWriteFails (s : State) (a : Nat) (v : Word) : Fault → Prop where
  | device (dev : devWord s.product a = true) (ans : ∀ w rest, s.devIn ≠ .value w :: rest) :
      WordWriteFails s a v .deviceRefused
  | low {f : Fault} (notDev : devWord s.product a = false) (fails : ByteWriteFails s a f) : WordWriteFails s a v f
  | high {f : Fault} {s1 : State} (notDev : devWord s.product a = false) (low : ByteWritten s a (lo8 v) s1)
      (fails : ByteWriteFails s1 (a + 1) f) : WordWriteFails s a v f

/-! ### The operand in memory -/

/-- The memory operand of a two-operand 8-bit operation. -/
def aluMemOp : AluOp → Option MemOp
  | .aMem m => some m
  | .saddrImm off _ => some (.saddr off)
  | .absImm es w _ => some (.abs es w)
  | .aImm _ => none
  | .aReg _ => none
  | .regA _ => none

/-- The memory operand of a bit operand. -/
def bitMemOp : BitLoc → Option MemOp
  | .a => none
  | .mem m => some m

/-- The operand that an instruction accesses in memory as one byte (`20_memory.md` R79), if it has one. -/
def byteOperand : Instr → Option MemOp
  | .movMI m _ => some m
  | .movAM m => some m
  | .movMA m => some m
  | .movRM _ m => some m
  | .movEsSaddr off => some (.saddr off)
  | .xchAM m => some m
  | .onebM m => some m
  | .clrbM m => some m
  | .movs es off => some (.hlOff es off)
  | .add o => aluMemOp o
  | .addc o => aluMemOp o
  | .sub o => aluMemOp o
  | .subc o => aluMemOp o
  | .and o => aluMemOp o
  | .or o => aluMemOp o
  | .xor o => aluMemOp o
  | .cmp o => aluMemOp o
  | .cmp0M m => some m
  | .cmps es off => some (.hlOff es off)
  | .incM m => some m
  | .decM m => some m
  | .mov1Cy l _ => bitMemOp l
  | .mov1Bit l _ => bitMemOp l
  | .and1 l _ => bitMemOp l
  | .or1 l _ => bitMemOp l
  | .xor1 l _ => bitMemOp l
  | .set1 l _ => bitMemOp l
  | .clr1 l _ => bitMemOp l
  | .bt l _ _ => bitMemOp l
  | .bf l _ _ => bitMemOp l
  | .btclr l _ _ => bitMemOp l
  | _ => none

/-- The operand that an instruction accesses in memory as one word, if it has one. -/
def wordOperand : Instr → Option MemOp
  | .movwMI m _ => some m
  | .movwAxM m => some m
  | .movwMAx m => some m
  | .movwRM _ m => some m
  | .addw (.mem m) => some m
  | .subw (.mem m) => some m
  | .cmpw (.mem m) => some m
  | .incwM m => some m
  | .decwM m => some m
  | _ => none

/-- The instruction reads its memory operand; the others only store to it. -/
def readsOperand : Instr → Bool
  | .movMI _ _ => false
  | .movMA _ => false
  | .onebM _ => false
  | .clrbM _ => false
  | .movs _ _ => false
  | .movwMI _ _ => false
  | .movwMAx _ => false
  | _ => true

/-- A two-operand operation that writes its destination stores to memory in the form `saddr, #byte` alone. -/
def aluStores : AluOp → Bool
  | .saddrImm _ _ => true
  | .aImm _ => false
  | .aReg _ => false
  | .regA _ => false
  | .aMem _ => false
  | .absImm _ _ _ => false

/-- The instruction stores to its memory operand; BTCLR where the byte it has read, `v`, has the bit set. -/
def storesOperand (v : Byte) : Instr → Bool
  | .movMI _ _ => true
  | .movMA _ => true
  | .onebM _ => true
  | .clrbM _ => true
  | .movs _ _ => true
  | .xchAM _ => true
  | .add o => aluStores o
  | .addc o => aluStores o
  | .sub o => aluStores o
  | .subc o => aluStores o
  | .and o => aluStores o
  | .or o => aluStores o
  | .xor o => aluStores o
  | .incM _ => true
  | .decM _ => true
  | .mov1Bit _ _ => true
  | .set1 _ _ => true
  | .clr1 _ _ => true
  | .btclr _ n _ => v.getLsbD n.toNat
  | .movwMI _ _ => true
  | .movwMAx _ => true
  | .incwM _ => true
  | .decwM _ => true
  | _ => false

/-- The word that an instruction stores to its memory operand, where `v` is the word it has read. -/
def storedWord (s : State) (v : Word) : Instr → Word
  | .movwMI _ d => d
  | .movwMAx _ => s.r16 s.bank .ax
  | .incwM _ => v + 1
  | .decwM _ => v - 1
  | _ => 0

/-- `i` is about to store to its byte operand at `a` in the state `u`: at once, or after it has read the byte there. -/
inductive AboutToStore (i : Instr) (s : State) (a : Nat) : State → Prop where
  | atOnce (stores : storesOperand 0 i = true) (noRead : readsOperand i = false) : AboutToStore i s a s
  | afterRead {v : Byte} {u : State} (reads : readsOperand i = true) (read : ByteRead s a v u)
      (stores : storesOperand v i = true) : AboutToStore i s a u

/-- `i` is about to store the word `w` to its word operand at `a` in the state `u`. -/
inductive AboutToStoreWord (i : Instr) (s : State) (a : Nat) : Word → State → Prop where
  | atOnce (stores : storesOperand 0 i = true) (noRead : readsOperand i = false) :
      AboutToStoreWord i s a (storedWord s 0 i) s
  | afterRead {v : Word} {u : State} (reads : readsOperand i = true) (read : WordRead s a v u)
      (stores : storesOperand 0 i = true) : AboutToStoreWord i s a (storedWord s v i) u

/-- The sequential flow from PC to the next instruction stays in its fetch region (R77). -/
abbrev flows (i : Instr) (s : State) : Prop := crosses s.product s.pc.toNat (nextPc i s).toNat = false

/-- No byte of the list of addresses lies in the fetch window behind the instruction (R88). -/
abbrev fresh (i : Instr) (s : State) (as : List Nat) : Prop := ∀ a ∈ as, stale s (nextPc i s) a = false

/-! ### Instructions that end at the next one -/

/-- The instructions that end with `PC <- next` whenever they complete: all but the calls, BRK, the returns, the branches, the
skips and the row PREFIX. -/
def sequential : Instr → Bool
  | .movRI _ _ => true
  | .movMI _ _ => true
  | .movAR _ => true
  | .movRA _ => true
  | .movAM _ => true
  | .movMA _ => true
  | .movRM _ _ => true
  | .movEsI _ => true
  | .movEsSaddr _ => true
  | .xchAR _ => true
  | .xchAM _ => true
  | .onebR _ => true
  | .onebM _ => true
  | .clrbR _ => true
  | .clrbM _ => true
  | .movs _ _ => true
  | .movwRI _ _ => true
  | .movwMI _ _ => true
  | .movwAxR _ => true
  | .movwRAx _ => true
  | .movwAxM _ => true
  | .movwMAx _ => true
  | .movwRM _ _ => true
  | .xchw _ => true
  | .onew _ => true
  | .clrw _ => true
  | .add _ => true
  | .addc _ => true
  | .sub _ => true
  | .subc _ => true
  | .and _ => true
  | .or _ => true
  | .xor _ => true
  | .cmp _ => true
  | .cmp0R _ => true
  | .cmp0M _ => true
  | .cmps _ _ => true
  | .addw _ => true
  | .subw _ => true
  | .cmpw _ => true
  | .addwSp _ => true
  | .subwSp _ => true
  | .mulu => true
  | .incR _ => true
  | .incM _ => true
  | .decR _ => true
  | .decM _ => true
  | .incwR _ => true
  | .incwM _ => true
  | .decwR _ => true
  | .decwM _ => true
  | .shr _ => true
  | .shrw _ => true
  | .shl _ _ => true
  | .shlw _ _ => true
  | .sar _ => true
  | .sarw _ => true
  | .ror => true
  | .rol => true
  | .rorc => true
  | .rolc => true
  | .rolwc _ => true
  | .mov1Cy _ _ => true
  | .mov1Bit _ _ => true
  | .and1 _ _ => true
  | .or1 _ _ => true
  | .xor1 _ _ => true
  | .set1 _ _ => true
  | .clr1 _ _ => true
  | .set1Cy => true
  | .clr1Cy => true
  | .not1Cy => true
  | .callR _ => false
  | .callRel _ => false
  | .callAbs16 _ => false
  | .callAbs20 _ => false
  | .callt _ => false
  | .brk => false
  | .ret => false
  | .reti => false
  | .retb => false
  | .pushPsw => true
  | .pushR _ => true
  | .popPsw => true
  | .popR _ => true
  | .brAx => false
  | .brRel8 _ => false
  | .brRel16 _ => false
  | .brAbs16 _ => false
  | .brAbs20 _ => false
  | .bc _ => false
  | .bnc _ => false
  | .bz _ => false
  | .bnz _ => false
  | .bh _ => false
  | .bnh _ => false
  | .bt _ _ _ => false
  | .bf _ _ _ => false
  | .btclr _ _ _ => false
  | .skc => false
  | .sknc => false
  | .skz => false
  | .sknz => false
  | .skh => false
  | .sknh => false
  | .sel _ => true
  | .nop => true
  | .ei => true
  | .di => true
  | .halt => true
  | .stop => true
  | .prefixAlone => false

/-! ### What an instruction may change -/

/-- The address of a register of the current bank (`10_state.md` R37). -/
def regAddr (s : State) (r : Reg8) : Nat := 0xFFEE0 + regIndex s.bank r

/-- The addresses of the two registers of a pair. -/
def pairAddrs (s : State) (rp : Reg16) : List Nat := [regAddr s (pairLo rp), regAddr s (pairHi rp)]

/-- The byte operand's address, if it has one. -/
def byteAt (s : State) (m : MemOp) : List Nat :=
  match byteAddr s m with
  | .ok a => [a]
  | .error _ => []

/-- The word operand's two addresses, if it has them. -/
def wordAt (s : State) (m : MemOp) : List Nat :=
  match wordAddr s m with
  | .ok a => [a, a + 1]
  | .error _ => []

/-- The addresses of PSW and of SP (R43). -/
def pswAt : List Nat := [0xFFFFA]
def spAt : List Nat := [0xFFFF8, 0xFFFF9]

/-- The bytes of a two-byte and of a four-byte frame (R35). -/
def frame2 (s : State) : List Nat := [stackAddr s (-1), stackAddr s (-2)]
def frame4 (s : State) : List Nat := [stackAddr s (-1), stackAddr s (-2), stackAddr s (-3), stackAddr s (-4)]

/-- Every access of a sequential instruction succeeds: its memory operand has an address, can be read where it is read and
written (with any value) where it is stored to, outside the fetch window; the frame of a PUSH can be written, the bytes of
a POP can be read. -/
structure AccessesSucceed (i : Instr) (s : State) : Prop where
  byte : ∀ m, byteOperand i = some m → ∃ a, byteAddr s m = .ok a ∧ (readsOperand i = true → ∃ v u, ByteRead s a v u) ∧
    ∀ u, AboutToStore i s a u → fresh i s [a] ∧ ∀ v, ∃ t, ByteWritten u a v t
  word : ∀ m, wordOperand i = some m → ∃ a, wordAddr s m = .ok a ∧ (readsOperand i = true → ∃ v u, WordRead s a v u) ∧
    ∀ v u, AboutToStoreWord i s a v u → fresh i s [a, a + 1] ∧ ∃ t, WordWritten u a v t
  push : (i = .pushPsw ∨ ∃ rp, i = .pushR rp) → fresh i s (frame2 s) ∧ ∀ a ∈ frame2 s, inStack s.product a = true
  pop : (i = .popPsw ∨ ∃ rp, i = .popR rp) → ∀ k ∈ ([0, 1] : List (BitVec 16)),
    inStack s.product (stackAddr s k) = true ∧ ∃ v, memRead (stackAddr s k) s.mem = some v

/-- The addresses that a two-operand 8-bit operation may change. -/
def aluFootprint (s : State) : AluOp → List Nat
  | .aImm _ => regAddr s .a :: pswAt
  | .aReg _ => regAddr s .a :: pswAt
  | .aMem _ => regAddr s .a :: pswAt
  | .regA r => regAddr s r :: pswAt
  | .saddrImm off _ => saddrAddr off :: pswAt
  | .absImm _ _ _ => pswAt

/-- The addresses of the byte that holds a bit operand. -/
def bitAt (s : State) : BitLoc → List Nat
  | .a => [regAddr s .a]
  | .mem m => byteAt s m

/-- Every address whose byte an instruction may change when it completes: its destination registers, the bytes it stores to,
and PSW, SP, ES where the spec has it write them. -/
def footprint (i : Instr) (s : State) : List Nat :=
  match i with
  | .movRI r _ => [regAddr s r]
  | .movMI m _ => byteAt s m
  | .movAR _ => [regAddr s .a]
  | .movRA r => [regAddr s r]
  | .movAM _ => [regAddr s .a]
  | .movMA m => byteAt s m
  | .movRM r _ => [regAddr s r]
  | .movEsI _ => [0xFFFFD]
  | .movEsSaddr _ => [0xFFFFD]
  | .xchAR r => [regAddr s .a, regAddr s r]
  | .xchAM m => regAddr s .a :: byteAt s m
  | .onebR r => [regAddr s r]
  | .onebM m => byteAt s m
  | .clrbR r => [regAddr s r]
  | .clrbM m => byteAt s m
  | .movs es off => pswAt ++ byteAt s (.hlOff es off)
  | .movwRI rp _ => pairAddrs s rp
  | .movwMI m _ => wordAt s m
  | .movwAxR _ => pairAddrs s .ax
  | .movwRAx rp => pairAddrs s rp
  | .movwAxM _ => pairAddrs s .ax
  | .movwMAx m => wordAt s m
  | .movwRM rp _ => pairAddrs s rp
  | .xchw rp => pairAddrs s .ax ++ pairAddrs s rp
  | .onew rp => pairAddrs s rp
  | .clrw rp => pairAddrs s rp
  | .add o => aluFootprint s o
  | .addc o => aluFootprint s o
  | .sub o => aluFootprint s o
  | .subc o => aluFootprint s o
  | .and o => aluFootprint s o
  | .or o => aluFootprint s o
  | .xor o => aluFootprint s o
  | .cmp _ => pswAt
  | .cmp0R _ => pswAt
  | .cmp0M _ => pswAt
  | .cmps _ _ => pswAt
  | .addw _ => pairAddrs s .ax ++ pswAt
  | .subw _ => pairAddrs s .ax ++ pswAt
  | .cmpw _ => pswAt
  | .addwSp _ => spAt
  | .subwSp _ => spAt
  | .mulu => pairAddrs s .ax
  | .incR r => regAddr s r :: pswAt
  | .incM m => pswAt ++ byteAt s m
  | .decR r => regAddr s r :: pswAt
  | .decM m => pswAt ++ byteAt s m
  | .incwR rp => pairAddrs s rp
  | .incwM m => wordAt s m
  | .decwR rp => pairAddrs s rp
  | .decwM m => wordAt s m
  | .shr _ => regAddr s .a :: pswAt
  | .shrw _ => pairAddrs s .ax ++ pswAt
  | .shl r _ => regAddr s r :: pswAt
  | .shlw rp _ => pairAddrs s rp ++ pswAt
  | .sar _ => regAddr s .a :: pswAt
  | .sarw _ => pairAddrs s .ax ++ pswAt
  | .ror => regAddr s .a :: pswAt
  | .rol => regAddr s .a :: pswAt
  | .rorc => regAddr s .a :: pswAt
  | .rolc => regAddr s .a :: pswAt
  | .rolwc rp => pairAddrs s rp ++ pswAt
  | .mov1Cy _ _ => pswAt
  | .mov1Bit loc _ => bitAt s loc
  | .and1 _ _ => pswAt
  | .or1 _ _ => pswAt
  | .xor1 _ _ => pswAt
  | .set1 loc _ => bitAt s loc
  | .clr1 loc _ => bitAt s loc
  | .set1Cy => pswAt
  | .clr1Cy => pswAt
  | .not1Cy => pswAt
  | .callR _ => spAt ++ frame4 s
  | .callRel _ => spAt ++ frame4 s
  | .callAbs16 _ => spAt ++ frame4 s
  | .callAbs20 _ => spAt ++ frame4 s
  | .callt _ => spAt ++ frame4 s
  | .brk => pswAt ++ spAt ++ frame4 s
  | .ret => spAt
  | .reti => pswAt ++ spAt
  | .retb => pswAt ++ spAt
  | .pushPsw => spAt ++ frame2 s
  | .pushR _ => spAt ++ frame2 s
  | .popPsw => pswAt ++ spAt
  | .popR rp => spAt ++ pairAddrs s rp
  | .brAx => []
  | .brRel8 _ => []
  | .brRel16 _ => []
  | .brAbs16 _ => []
  | .brAbs20 _ => []
  | .bc _ => []
  | .bnc _ => []
  | .bz _ => []
  | .bnz _ => []
  | .bh _ => []
  | .bnh _ => []
  | .bt _ _ _ => []
  | .bf _ _ _ => []
  | .btclr loc _ _ => bitAt s loc
  | .skc => []
  | .sknc => []
  | .skz => []
  | .sknz => []
  | .skh => []
  | .sknh => []
  | .sel _ => pswAt
  | .nop => []
  | .ei => pswAt
  | .di => pswAt
  | .halt => []
  | .stop => []
  | .prefixAlone => []

/-- The bits of PSW that a store to the operand may change: all, where the operand is PSW itself (R31). -/
def storeMask (s : State) (m : MemOp) : Byte := if byteAt s m = pswAt then 0xFF else 0

/-- The bit of PSW that a write of one bit may change, where the operand is PSW itself (R31). -/
def bitMask (s : State) (loc : BitLoc) (bit : BitVec 3) : Byte := if bitAt s loc = pswAt then 1#8 <<< bit.toNat else 0

/-- The bits of PSW that an instruction may change (R24 to R31; bit 6 Z, bit 4 AC, bit 0 CY, bit 7 IE, bits 5 and 3 RBS). -/
def pswMask (i : Instr) (s : State) : Byte :=
  match i with
  | .movRI _ _ | .movAR _ | .movRA _ | .movAM _ | .movRM _ _ | .movEsI _ | .movEsSaddr _ | .xchAR _ => 0
  | .onebR _ | .clrbR _ => 0
  | .movMI m _ => storeMask s m
  | .movMA m => storeMask s m
  | .xchAM m => storeMask s m
  | .onebM m => storeMask s m
  | .clrbM m => storeMask s m
  | .movs es off => 0x41 ||| storeMask s (.hlOff es off)
  | .movwRI _ _ | .movwMI _ _ | .movwAxR _ | .movwRAx _ | .movwAxM _ | .movwMAx _ | .movwRM _ _ | .xchw _ => 0
  | .onew _ | .clrw _ => 0
  | .add _ | .addc _ | .sub _ | .subc _ | .cmp _ | .cmp0R _ | .cmp0M _ | .cmps _ _ => 0x51
  | .and _ | .or _ | .xor _ => 0x40
  | .addw _ | .subw _ | .cmpw _ => 0x51
  | .addwSp _ | .subwSp _ | .mulu => 0
  | .incR _ | .decR _ => 0x50
  | .incM m => 0x50 ||| storeMask s m
  | .decM m => 0x50 ||| storeMask s m
  | .incwR _ | .incwM _ | .decwR _ | .decwM _ => 0
  | .shr _ | .shrw _ | .shl _ _ | .shlw _ _ | .sar _ | .sarw _ | .ror | .rol | .rorc | .rolc | .rolwc _ => 0x01
  | .mov1Cy _ _ | .and1 _ _ | .or1 _ _ | .xor1 _ _ | .set1Cy | .clr1Cy | .not1Cy => 0x01
  | .mov1Bit loc bit => bitMask s loc bit
  | .set1 loc bit => bitMask s loc bit
  | .clr1 loc bit => bitMask s loc bit
  | .btclr loc bit _ => bitMask s loc bit
  | .callR _ | .callRel _ | .callAbs16 _ | .callAbs20 _ | .callt _ | .ret | .pushPsw | .pushR _ | .popR _ => 0
  | .brk => 0x80
  | .reti | .retb | .popPsw => 0xFF
  | .brAx | .brRel8 _ | .brRel16 _ | .brAbs16 _ | .brAbs20 _ | .bc _ | .bnc _ | .bz _ | .bnz _ | .bh _ | .bnh _ => 0
  | .bt _ _ _ | .bf _ _ _ | .skc | .sknc | .skz | .sknz | .skh | .sknh => 0
  | .sel _ => 0x28
  | .nop => 0
  | .ei | .di => 0x80
  | .halt | .stop | .prefixAlone => 0

/-- The instructions that set `IntInhibit` when they complete (`10_state.md` R47), but for the skips, which set it when they
do not skip (`47_branch_skip.md` R334). -/
def inhibits : Instr → Bool
  | .movMI m _ => isPsw m
  | .movMA m => isPsw m
  | .mov1Bit loc _ => isPswBit loc
  | .set1 loc _ => isPswBit loc
  | .clr1 loc _ => isPswBit loc
  | .btclr loc _ _ => isPswBit loc
  | .reti => true
  | .retb => true
  | .popPsw => true
  | .ei => true
  | .di => true
  | _ => false

/-- The skip instructions. -/
def isSkip : Instr → Bool
  | .skc => true
  | .sknc => true
  | .skz => true
  | .sknz => true
  | .skh => true
  | .sknh => true
  | _ => false

/-- The instructions that draw an unconstrained bit (`43_alu16_mul.md` R230). -/
def drawsBit : Instr → Bool
  | .addw _ => true
  | .subw _ => true
  | .cmpw _ => true
  | _ => false

/-! ### Runs -/

/-- A run of `n` steps from `s` meets no fault and no refusal. -/
def safeRun (n : Nat) (s : State) : Prop := ∃ t, Sys2Proof.core.run n s = .next t

end Sys2Proof.Machine
end

