-- ==== Sys2Proof/Certificates/Slice0/Obligations.lean ====
section
/-! DEFINITION. The statements about the model. The conclusion `exec i s = .next t` says at once that the instruction
completes, what it writes, and that everything else stays. Clock counts are outside the model (log 31). The latches
`IntInhibit`, `PmcSettle` and `PmcWritten`, which the next states name, are the spec's own decisions D10 (log 22) and D14
(log 23). -/

open Sys2Proof Sys2Proof.Machine

/-! ### Encoding -/

/-- Words written out from the encoding tables of `spec/` decode to the instructions they stand for: R141, R142 (with PREFIX:
R103), R152, R200, R246, R276 (71 7A FA is EI, R352), R294 and R331. -/
def Obligations.SampleWordsDecode : Prop :=
  decode [0x51, 0x4D] = .ok (.movRI .a 0x4D, 2) ∧
  decode [0x11, 0xCF, 0x00, 0xFE, 0x55] = .ok (.movMI (.abs true 0xFE00) 0x55, 5) ∧
  decode [0x61, 0xAA, 0x34, 0x12] = .ok (.xchAM (.abs false 0x1234), 4) ∧
  decode [0x61, 0x25] = .ok (.sub (.regA .d), 2) ∧
  decode [0x31, 0xFE] = .ok (.shrw 15, 2) ∧
  decode [0x71, 0x7A, 0xFA] = .ok (.ei, 3) ∧
  decode [0x71, 0x7A, 0x20] = .ok (.set1 (.mem (.sfr 0x20)) 7, 3) ∧
  decode [0x61, 0xF7] = .ok (.callt 31, 2) ∧
  decode [0x31, 0x32, 0x47, 0x10] = .ok (.bt (.mem (.saddr 0x47)) 3 0x10, 4) ∧
  decode [0x61, 0x88] = .error (.unassignedMap2 0x88) ∧
  decode [0x31, 0x0A] = .error (.unassignedMap4 0x0A)

/-- Decoding the encoding of a well-formed instruction gives it back with its length, whatever bytes follow. -/
def Obligations.DecodeInvertsEncode : Prop :=
  ∀ (i : Instr) (rest : List Byte), i.wf = true → decode (encode i ++ rest) = .ok (i, i.size)

/-- What the decoder answers is a well-formed instruction, or the row PREFIX, with the length that its encoding has, and at
most five bytes. -/
def Obligations.DecodeAnswersWellFormed : Prop :=
  ∀ (bs : List Byte) (i : Instr) (n : Nat), decode bs = .ok (i, n) →
    (i.wf = true ∨ i = .prefixAlone) ∧ n = i.size ∧ n ≤ 5 ∧ n ≤ bs.length

/-- PREFIX is no instruction of its own: before an instruction without an ES form (also where operand bytes behind its
opcode are missing), before an unassigned code and before a second 11H it is read as the row PREFIX alone, which stops with
`IllegalEncoding`. That fault, and which code the row stands for, are the spec's own decision D3, a DESIGN CHOICE (log 13).
Before an instruction with an ES form it is part of that instruction. -/
def Obligations.PrefixAloneIsIllegal : Prop :=
  (∀ s : State, exec .prefixAlone s = .fault .illegalEncoding) ∧
  (∀ (s : State) (n : Nat), s.resetNow = false → s.mode = .run → pickRequest s s.pending = none →
    fetchAt s s.pc.toNat = .ok (.prefixAlone, n) → step s = .fault .illegalEncoding) ∧
  (∀ (bs : List Byte) (j : Instr) (n : Nat), decodePlain bs = .ok (j, n) → j.withEs = none →
    decode (0x11 :: bs) = .ok (.prefixAlone, 1)) ∧
  (∀ bs : List Byte, decodePlain bs = .error .truncated → opcodeWithoutEs bs = true →
    decode (0x11 :: bs) = .ok (.prefixAlone, 1)) ∧
  (∀ (bs : List Byte) (e : DecodeError), decodePlain bs = .error e → e ≠ .truncated →
    decode (0x11 :: bs) = .ok (.prefixAlone, 1)) ∧
  (∀ bs : List Byte, decode (0x11 :: 0x11 :: bs) = .ok (.prefixAlone, 1)) ∧
  (∀ (bs : List Byte) (j k : Instr) (n : Nat), decodePlain bs = .ok (j, n) → j.withEs = some k →
    decode (0x11 :: bs) = .ok (k, n + 1)) ∧
  (opcodeWithoutEs [0x8D] = true ∧ opcodeWithoutEs [0x61, 0xA8] = true ∧ opcodeWithoutEs [0xCD, 0x20] = true ∧
    opcodeWithoutEs [0x8F] = false ∧ opcodeWithoutEs [0x61] = false)

/-! ### The step, the invariant, the frames -/

/-- In Run mode, with no reset and no request to accept, a step whose fetch decodes to `i` is `exec i`, the waiting requests
having passed one boundary. -/
def Obligations.StepRunsDecodedInstruction : Prop :=
  ∀ (s : State) (i : Instr) (n : Nat), s.resetNow = false → s.mode = .run → pickRequest s s.pending = none →
    fetchAt s s.pc.toNat = .ok (i, n) →
    step s = exec i { s with pending := s.pending.map (Request.tick s), resets := tickResets s.resets }

/-- The same from the bytes: where the bytes of a well-formed instruction lie at PC in one fetch region, the step runs
it. -/
def Obligations.StepRunsStoredBytes : Prop :=
  ∀ (s : State) (i : Instr) (r : FetchRegion), i.wf = true → s.resetNow = false → s.mode = .run →
    pickRequest s s.pending = none →
    (∀ k, k < i.size → fetchRegion s.product (s.pc.toNat + k) = some r ∧
      memRead (s.pc.toNat + k) s.mem = (encode i)[k]?) →
    step s = exec i { s with pending := s.pending.map (Request.tick s), resets := tickResets s.resets }

/-- Every step keeps the invariant: canonical memory that lists only bytes of flash, RAM and external memory, SP even, the
constant bits of ES, CS and PMC 0, PMC unwritten until its one write. The canonical form is the model's (log 4); that the
constant bits stay 0 is the spec's own decision D8 (log 21), that PMC is written once its decision D14 (log 23). -/
def Obligations.StepKeepsInvariant : Prop :=
  ∀ s t : State, s.Inv → step s = .next t → t.Inv

/-- The machine right after reset: the values the spec gives (PSW, ES, CS, PMC, latches, Mode), and the invariant. The latches
and the mode are the spec's own decisions D10, D14 (logs 22, 23) and D12 (log 11). That no byte of memory has a value is no
value of the spec's: for flash, where the program image stands, it is the model's choice (log 3), for RAM it is the spec's own
decision D4 (log 4). -/
def Obligations.ResetState : Prop :=
  State.reset.Inv ∧ State.reset.psw = 0x06 ∧ State.reset.es = 0x0F ∧ State.reset.cs = 0x00 ∧ State.reset.pmc = 0x00 ∧
  State.reset.intInhibit = false ∧ State.reset.pmcSettle = false ∧ State.reset.pmcWritten = false ∧
  State.reset.mode = .run ∧ State.reset.mem = [] ∧
  pswIE State.reset.psw = false ∧ pswRBS State.reset.psw = 0 ∧ pswISP State.reset.psw = 3

/-- Every instruction that completes leaves every byte outside its footprint as it was, read as a data access reads it: the
registers of all banks, PSW, SP, ES, CS, PMC and memory. The mirror is flash seen through PMC, so its bytes stay as long as
PMC does. -/
def Obligations.OnlyTheFootprintChanges : Prop :=
  ∀ (i : Instr) (s t : State) (a : Nat), s.Inv → s.product.ok = true → exec i s = .next t → a ∉ footprint i s →
    (region s.product a = .mirror → t.pmc = s.pmc) → t.peek a = s.peek a

/-- Every instruction that completes changes only the bits of PSW that the spec has it write. -/
def Obligations.OnlyTheNamedFlagsChange : Prop :=
  ∀ (i : Instr) (s t : State), exec i s = .next t → (t.psw ^^^ s.psw) &&& ~~~(pswMask i s) = 0

/-- What no instruction changes, and what only the named ones do: the product, the requests and the times of resets never, the
mode only HALT and STOP, the count of unconstrained bits (log 6) only ADDW, SUBW and CMPW, and PMC once after reset. That PMC
stays once it is written is the spec's own decision D14 (a second write is a fault), and the latches `PmcWritten` and
`PmcSettle` are D14's as well, a DESIGN CHOICE (log 23). -/
def Obligations.HiddenStateFrame : Prop :=
  ∀ (i : Instr) (s t : State), exec i s = .next t →
    t.product = s.product ∧ t.pending = s.pending ∧ t.resets = s.resets ∧
    t.mode = (match i with | .halt => .halt | .stop => .stop | _ => s.mode) ∧
    t.draws = (if drawsBit i then s.draws + 1 else s.draws) ∧
    (s.pmcWritten = true → t.pmc = s.pmc ∧ t.pmcWritten = true) ∧
    t.pmcSettle = (!s.pmcWritten && t.pmcWritten)

/-- `IntInhibit` after an instruction: set by exactly the listed instructions; cleared by every other one but the skips,
which set it when they do not skip. That exactly the listed encodings set the latch is the spec's own decision D10, a DESIGN
CHOICE (log 22). -/
def Obligations.IntInhibitLatch : Prop :=
  ∀ (i : Instr) (s t : State), exec i s = .next t → isSkip i = false → t.intInhibit = inhibits i

/-- No step ever changes a byte of flash, whatever instruction, interrupt or reset event it is. That a store to flash is the
fault `WriteToReadOnly`, and so changes nothing, is the spec's own decision D19 (log 35); that the reset event keeps the flash
is part of log 12. -/
def Obligations.FlashNeverChanges : Prop :=
  ∀ (s t : State) (a : Nat), step s = .next t → region s.product a = .flash →
    memRead a t.mem = memRead a s.mem ∧ t.product = s.product

/-! ### 8-bit transfer -/

/-- The register forms of MOV, ONEB, CLRB and XCH, and `MOV ES, #byte`. That ES takes `byte & 0FH` is the spec's own decision
D8, a DESIGN CHOICE (log 21). -/
def Obligations.ByteRegisterTransfers : Prop :=
  (∀ (r : Reg8) (d : Byte) (s : State), flows (.movRI r d) s →
    exec (.movRI r d) s = .next { s.setR8 s.bank r d with pc := s.pc + 2, intInhibit := false, pmcSettle := false }) ∧
  (∀ (r : Reg8) (s : State), flows (.movAR r) s →
    exec (.movAR r) s =
      .next { s.setR8 s.bank .a (s.r8 s.bank r) with pc := s.pc + 1, intInhibit := false, pmcSettle := false }) ∧
  (∀ (r : Reg8) (s : State), flows (.movRA r) s →
    exec (.movRA r) s =
      .next { s.setR8 s.bank r (s.r8 s.bank .a) with pc := s.pc + 1, intInhibit := false, pmcSettle := false }) ∧
  (∀ (r : Reg8) (s : State), flows (.onebR r) s →
    exec (.onebR r) s = .next { s.setR8 s.bank r 0x01 with pc := s.pc + 1, intInhibit := false, pmcSettle := false }) ∧
  (∀ (r : Reg8) (s : State), flows (.clrbR r) s →
    exec (.clrbR r) s = .next { s.setR8 s.bank r 0x00 with pc := s.pc + 1, intInhibit := false, pmcSettle := false }) ∧
  (∀ (r : Reg8) (s : State), flows (.xchAR r) s →
    exec (.xchAR r) s =
      .next { (s.setR8 s.bank .a (s.r8 s.bank r)).setR8 s.bank r (s.r8 s.bank .a) with
        pc := nextPc (.xchAR r) s, intInhibit := false, pmcSettle := false }) ∧
  (∀ (d : Byte) (s : State), flows (.movEsI d) s →
    exec (.movEsI d) s = .next { s with es := d &&& 0x0F, pc := s.pc + 2, intInhibit := false, pmcSettle := false })

/-- `MOV A, mem`, `MOV X/B/C, mem`, `MOV ES, saddr`: the destination takes the byte that one read of the operand's address
gives; nothing else changes but what a device's answer consumes. That ES takes the byte `& 0FH` is the spec's own decision D8,
a DESIGN CHOICE (log 21). -/
def Obligations.ByteLoads : Prop :=
  (∀ (m : MemOp) (s t : State) (a : Nat) (v : Byte), byteAddr s m = .ok a → ByteRead s a v t → flows (.movAM m) s →
    exec (.movAM m) s =
      .next { t.setR8 s.bank .a v with pc := nextPc (.movAM m) s, intInhibit := false, pmcSettle := false }) ∧
  (∀ (r : Reg8) (m : MemOp) (s t : State) (a : Nat) (v : Byte), byteAddr s m = .ok a → ByteRead s a v t →
    flows (.movRM r m) s →
    exec (.movRM r m) s =
      .next { t.setR8 s.bank r v with pc := nextPc (.movRM r m) s, intInhibit := false, pmcSettle := false }) ∧
  (∀ (off : Byte) (s t : State) (v : Byte), ByteRead s (saddrAddr off) v t → flows (.movEsSaddr off) s →
    exec (.movEsSaddr off) s =
      .next { t with es := v &&& 0x0F, pc := s.pc + 3, intInhibit := false, pmcSettle := false })

/-- `MOV mem, #byte`, `MOV mem, A`, `ONEB mem`, `CLRB mem`: one write at the operand's address, with what a write does there
(RAM, a general register, PSW, SP, ES, CS, PMC, a device). The `sfr` forms on PSW set `IntInhibit` (D10, log 22); the first
write to PMC sets `PmcSettle` (D14, log 23); ES, CS and PMC keep their constant bits 0 (D8, log 21). -/
def Obligations.ByteStores : Prop :=
  (∀ (m : MemOp) (d : Byte) (s t : State) (a : Nat), byteAddr s m = .ok a → fresh (.movMI m d) s [a] →
    ByteWritten s a d t → flows (.movMI m d) s →
    exec (.movMI m d) s =
      .next { t with
        pc := nextPc (.movMI m d) s, intInhibit := decide (m = .sfr 0xFA)
        pmcSettle := !s.pmcWritten && t.pmcWritten }) ∧
  (∀ (m : MemOp) (s t : State) (a : Nat), byteAddr s m = .ok a → fresh (.movMA m) s [a] →
    ByteWritten s a (s.r8 s.bank .a) t → flows (.movMA m) s →
    exec (.movMA m) s =
      .next { t with
        pc := nextPc (.movMA m) s, intInhibit := decide (m = .sfr 0xFA)
        pmcSettle := !s.pmcWritten && t.pmcWritten }) ∧
  (∀ (m : MemOp) (s t : State) (a : Nat), byteAddr s m = .ok a → fresh (.onebM m) s [a] →
    ByteWritten s a 0x01 t → flows (.onebM m) s →
    exec (.onebM m) s =
      .next { t with
        pc := nextPc (.onebM m) s, intInhibit := false, pmcSettle := !s.pmcWritten && t.pmcWritten }) ∧
  (∀ (m : MemOp) (s t : State) (a : Nat), byteAddr s m = .ok a → fresh (.clrbM m) s [a] →
    ByteWritten s a 0x00 t → flows (.clrbM m) s →
    exec (.clrbM m) s =
      .next { t with
        pc := nextPc (.clrbM m) s, intInhibit := false, pmcSettle := !s.pmcWritten && t.pmcWritten })

/-- `XCH A, mem`: one read, one write of A, then A takes the byte read. `MOVS [HL+byte], X`: X is stored, Z says X = 0, CY
says A = 0 or X = 0 (both as before the instruction); the flags are written after the store (log 36). XCH writes A of the bank
that RBS names at the start of the instruction (R37), also where its operand is PSW and the write changes RBS, the model's
reading (log 34). -/
def Obligations.ByteExchangeAndMovs : Prop :=
  (∀ (m : MemOp) (s u t : State) (a : Nat) (v : Byte), byteAddr s m = .ok a → ByteRead s a v u →
    fresh (.xchAM m) s [a] → ByteWritten u a (s.r8 s.bank .a) t → flows (.xchAM m) s →
    exec (.xchAM m) s =
      .next { t.setR8 s.bank .a v with
        pc := nextPc (.xchAM m) s, intInhibit := false, pmcSettle := !s.pmcWritten && t.pmcWritten }) ∧
  (∀ (es : Bool) (off : Byte) (s t : State) (a : Nat), byteAddr s (.hlOff es off) = .ok a → fresh (.movs es off) s [a] →
    ByteWritten s a (s.r8 s.bank .x) t → flows (.movs es off) s →
    exec (.movs es off) s =
      .next { t with
        psw := setCY (setZ t.psw (s.r8 s.bank .x == 0)) (s.r8 s.bank .a == 0 || s.r8 s.bank .x == 0)
        pc := nextPc (.movs es off) s, intInhibit := false, pmcSettle := !s.pmcWritten && t.pmcWritten })

/-! ### 16-bit transfer -/

/-- `MOVW rp, #word` (R181), `MOVW AX, rp` and `MOVW rp, AX` (R183), with their encodings: the pair is moved, no flag
changes. -/
def Obligations.WordRegisterMoves : Prop :=
  (∀ (rp : Reg16) (l h : Byte), decode [0x30 + 2 * rp.code, l, h] = .ok (.movwRI rp (h ++ l), 3)) ∧
  (∀ rp : Reg16, rp ≠ .ax → decode [0x11 + 2 * rp.code] = .ok (.movwAxR rp, 1)) ∧
  (∀ rp : Reg16, rp ≠ .ax → decode [0x10 + 2 * rp.code] = .ok (.movwRAx rp, 1)) ∧
  (∀ (rp : Reg16) (d : Word) (s : State), flows (.movwRI rp d) s →
    exec (.movwRI rp d) s =
      .next { s.setR16 s.bank rp d with pc := s.pc + 3, intInhibit := false, pmcSettle := false }) ∧
  (∀ (rp : Reg16) (s : State), flows (.movwAxR rp) s →
    exec (.movwAxR rp) s =
      .next { s.setR16 s.bank .ax (s.r16 s.bank rp) with pc := s.pc + 1, intInhibit := false, pmcSettle := false }) ∧
  (∀ (rp : Reg16) (s : State), flows (.movwRAx rp) s →
    exec (.movwRAx rp) s =
      .next { s.setR16 s.bank rp (s.r16 s.bank .ax) with pc := s.pc + 1, intInhibit := false, pmcSettle := false })

/-- XCHW (R187), ONEW (R188), CLRW (R189), with their encodings: the pairs change as the rules say, no flag changes. -/
def Obligations.WordExchangeOneClear : Prop :=
  (decode [0x33] = .ok (.xchw .bc, 1) ∧ decode [0x35] = .ok (.xchw .de, 1) ∧ decode [0x37] = .ok (.xchw .hl, 1)) ∧
  (decode [0xE6] = .ok (.onew .ax, 1) ∧ decode [0xE7] = .ok (.onew .bc, 1)) ∧
  (decode [0xF6] = .ok (.clrw .ax, 1) ∧ decode [0xF7] = .ok (.clrw .bc, 1)) ∧
  (∀ (rp : Reg16) (s : State), flows (.xchw rp) s →
    exec (.xchw rp) s =
      .next { (s.setR16 s.bank .ax (s.r16 s.bank rp)).setR16 s.bank rp (s.r16 s.bank .ax) with
        pc := s.pc + 1, intInhibit := false, pmcSettle := false }) ∧
  (∀ (rp : Reg16) (s : State), flows (.onew rp) s →
    exec (.onew rp) s =
      .next { s.setR16 s.bank rp 0x0001 with pc := s.pc + 1, intInhibit := false, pmcSettle := false }) ∧
  (∀ (rp : Reg16) (s : State), flows (.clrw rp) s →
    exec (.clrw rp) s =
      .next { s.setR16 s.bank rp 0x0000 with pc := s.pc + 1, intInhibit := false, pmcSettle := false })

/-- `MOVW AX, mem`, `MOVW BC/DE/HL, mem`: the pair takes the word that one read of the operand's address gives. -/
def Obligations.WordLoads : Prop :=
  (∀ (m : MemOp) (s t : State) (a : Nat) (v : Word), wordAddr s m = .ok a → WordRead s a v t → flows (.movwAxM m) s →
    exec (.movwAxM m) s =
      .next { t.setR16 s.bank .ax v with pc := nextPc (.movwAxM m) s, intInhibit := false, pmcSettle := false }) ∧
  (∀ (rp : Reg16) (m : MemOp) (s t : State) (a : Nat) (v : Word), wordAddr s m = .ok a → WordRead s a v t →
    flows (.movwRM rp m) s →
    exec (.movwRM rp m) s =
      .next { t.setR16 s.bank rp v with pc := nextPc (.movwRM rp m) s, intInhibit := false, pmcSettle := false })

/-- `MOVW saddrp/sfrp, #word`, `MOVW mem, AX`: one write of the word at the operand's address. -/
def Obligations.WordStores : Prop :=
  (∀ (m : MemOp) (d : Word) (s t : State) (a : Nat), wordAddr s m = .ok a → fresh (.movwMI m d) s [a, a + 1] →
    WordWritten s a d t → flows (.movwMI m d) s →
    exec (.movwMI m d) s =
      .next { t with
        pc := nextPc (.movwMI m d) s, intInhibit := false, pmcSettle := !s.pmcWritten && t.pmcWritten }) ∧
  (∀ (m : MemOp) (s t : State) (a : Nat), wordAddr s m = .ok a → fresh (.movwMAx m) s [a, a + 1] →
    WordWritten s a (s.r16 s.bank .ax) t → flows (.movwMAx m) s →
    exec (.movwMAx m) s =
      .next { t with
        pc := nextPc (.movwMAx m) s, intInhibit := false, pmcSettle := !s.pmcWritten && t.pmcWritten })

/-- The forms whose operand is SP (R303 to R307), with their encodings: a write stores `value & FFFEH`; `ADDW SP` and `SUBW SP`
wrap in 16 bits; a read gives SP. No flag changes. That a read of an SP that nothing has written is no fault is the model's
choice (log 2). -/
def Obligations.StackPointerForms : Prop :=
  (∀ l h : Byte, decode [0xCB, 0xF8, l, h] = .ok (.movwMI (.sfr 0xF8) (h ++ l), 4)) ∧
  (decode [0xBE, 0xF8] = .ok (.movwMAx (.sfr 0xF8), 2) ∧ decode [0xAE, 0xF8] = .ok (.movwAxM (.sfr 0xF8), 2) ∧
    decode [0xDB, 0xF8, 0xFF] = .ok (.movwRM .bc (.abs false 0xFFF8), 3) ∧
    decode [0xEB, 0xF8, 0xFF] = .ok (.movwRM .de (.abs false 0xFFF8), 3) ∧
    decode [0xFB, 0xF8, 0xFF] = .ok (.movwRM .hl (.abs false 0xFFF8), 3)) ∧
  (∀ d : Byte, decode [0x10, d] = .ok (.addwSp d, 2) ∧ decode [0x20, d] = .ok (.subwSp d, 2)) ∧
  (∀ (d : Word) (s : State), flows (.movwMI (.sfr 0xF8) d) s → fresh (.movwMI (.sfr 0xF8) d) s [0xFFFF8, 0xFFFF9] →
    exec (.movwMI (.sfr 0xF8) d) s =
      .next { s with sp := d &&& 0xFFFE, pc := s.pc + 4, intInhibit := false, pmcSettle := false }) ∧
  (∀ s : State, flows (.movwMAx (.sfr 0xF8)) s → fresh (.movwMAx (.sfr 0xF8)) s [0xFFFF8, 0xFFFF9] →
    exec (.movwMAx (.sfr 0xF8)) s =
      .next { s with sp := s.r16 s.bank .ax &&& 0xFFFE, pc := s.pc + 2, intInhibit := false, pmcSettle := false }) ∧
  (∀ s : State, flows (.movwAxM (.sfr 0xF8)) s →
    exec (.movwAxM (.sfr 0xF8)) s =
      .next { s.setR16 s.bank .ax s.sp with pc := s.pc + 2, intInhibit := false, pmcSettle := false }) ∧
  (∀ (rp : Reg16) (s : State), flows (.movwRM rp (.abs false 0xFFF8)) s →
    exec (.movwRM rp (.abs false 0xFFF8)) s =
      .next { s.setR16 s.bank rp s.sp with pc := s.pc + 3, intInhibit := false, pmcSettle := false }) ∧
  (∀ (d : Byte) (s : State), flows (.addwSp d) s →
    exec (.addwSp d) s =
      .next { s with
        sp := (s.sp + d.zeroExtend 16) &&& 0xFFFE, pc := s.pc + 2, intInhibit := false, pmcSettle := false }) ∧
  (∀ (d : Byte) (s : State), flows (.subwSp d) s →
    exec (.subwSp d) s =
      .next { s with
        sp := (s.sp - d.zeroExtend 16) &&& 0xFFFE, pc := s.pc + 2, intInhibit := false, pmcSettle := false })

/-! ### 8-bit and 16-bit operations -/

/-- The flag helpers as exact arithmetic: result and carry together are the exact sum, the result less the borrow is the
exact difference; AC is the carry or borrow of the low nibbles; Z says that the result is 0. -/
def Obligations.AddSubAreExact : Prop :=
  (∀ (a b : Byte) (c : Bool),
    (add8 a b c).res.toNat + 256 * bitNat (add8 a b c).cy = a.toNat + b.toNat + bitNat c ∧
    ((add8 a b c).z = true ↔ (add8 a b c).res = 0) ∧
    ((add8 a b c).ac = true ↔ 16 ≤ a.toNat % 16 + b.toNat % 16 + bitNat c)) ∧
  (∀ (a b : Byte) (c : Bool),
    (sub8 a b c).res.toNat + b.toNat + bitNat c = a.toNat + 256 * bitNat (sub8 a b c).cy ∧
    ((sub8 a b c).z = true ↔ (sub8 a b c).res = 0) ∧
    ((sub8 a b c).ac = true ↔ a.toNat % 16 < b.toNat % 16 + bitNat c)) ∧
  (∀ a b : Word,
    (add16 a b).res.toNat + 65536 * bitNat (add16 a b).cy = a.toNat + b.toNat ∧
    ((add16 a b).z = true ↔ (add16 a b).res = 0)) ∧
  (∀ a b : Word,
    (sub16 a b).res.toNat + b.toNat = a.toNat + 65536 * bitNat (sub16 a b).cy ∧
    ((sub16 a b).z = true ↔ (sub16 a b).res = 0))

/-- The seven operations that write their destination, with what each computes from PSW, dst and src: the result, and PSW
with Z, AC and CY of the exact sum or difference (ADD, ADDC, SUB, SUBC) or with Z alone (AND, OR, XOR). -/
def Obligations.aluTable : List ((AluOp → Instr) × (Byte → Byte → Byte → Byte × Byte)) :=
  [(.add, fun p a b => ((add8 a b false).res, flags8 p (add8 a b false))),
   (.addc, fun p a b => ((add8 a b (pswCY p)).res, flags8 p (add8 a b (pswCY p)))),
   (.sub, fun p a b => ((sub8 a b false).res, flags8 p (sub8 a b false))),
   (.subc, fun p a b => ((sub8 a b (pswCY p)).res, flags8 p (sub8 a b (pswCY p)))),
   (.and, fun p a b => (a &&& b, setZ p (a &&& b == 0))),
   (.or, fun p a b => (a ||| b, setZ p (a ||| b == 0))),
   (.xor, fun p a b => (a ^^^ b, setZ p (a ^^^ b == 0)))]

/-- ADD, ADDC, SUB, SUBC, AND, OR, XOR on registers and immediates: `A, #byte`; `A, r`; `r, A`. -/
def Obligations.ByteOperationsOnRegisters : Prop :=
  ∀ (mk : AluOp → Instr) (f : Byte → Byte → Byte → Byte × Byte), (mk, f) ∈ Obligations.aluTable →
    (∀ (d : Byte) (s : State), flows (mk (.aImm d)) s →
      exec (mk (.aImm d)) s =
        .next { s.setR8 s.bank .a (f s.psw (s.r8 s.bank .a) d).1 with
          psw := (f s.psw (s.r8 s.bank .a) d).2, pc := s.pc + 2, intInhibit := false, pmcSettle := false }) ∧
    (∀ (r : Reg8) (s : State), flows (mk (.aReg r)) s →
      exec (mk (.aReg r)) s =
        .next { s.setR8 s.bank .a (f s.psw (s.r8 s.bank .a) (s.r8 s.bank r)).1 with
          psw := (f s.psw (s.r8 s.bank .a) (s.r8 s.bank r)).2
          pc := s.pc + 2, intInhibit := false, pmcSettle := false }) ∧
    (∀ (r : Reg8) (s : State), flows (mk (.regA r)) s →
      exec (mk (.regA r)) s =
        .next { s.setR8 s.bank r (f s.psw (s.r8 s.bank r) (s.r8 s.bank .a)).1 with
          psw := (f s.psw (s.r8 s.bank r) (s.r8 s.bank .a)).2
          pc := s.pc + 2, intInhibit := false, pmcSettle := false })

/-- The same operations on memory: `A, mem` reads the operand; `saddr, #byte` reads the byte and writes the result back to
the same address. -/
def Obligations.ByteOperationsOnMemory : Prop :=
  ∀ (mk : AluOp → Instr) (f : Byte → Byte → Byte → Byte × Byte), (mk, f) ∈ Obligations.aluTable →
    (∀ (m : MemOp) (s t : State) (a : Nat) (v : Byte), byteAddr s m = .ok a → ByteRead s a v t →
      flows (mk (.aMem m)) s →
      exec (mk (.aMem m)) s =
        .next { t.setR8 s.bank .a (f s.psw (s.r8 s.bank .a) v).1 with
          psw := (f s.psw (s.r8 s.bank .a) v).2
          pc := nextPc (mk (.aMem m)) s, intInhibit := false, pmcSettle := false }) ∧
    (∀ (off d : Byte) (s u t : State) (v : Byte), ByteRead s (saddrAddr off) v u →
      fresh (mk (.saddrImm off d)) s [saddrAddr off] → ByteWritten u (saddrAddr off) (f s.psw v d).1 t →
      flows (mk (.saddrImm off d)) s →
      exec (mk (.saddrImm off d)) s =
        .next { t with
          psw := (f s.psw v d).2, pc := s.pc + 3, intInhibit := false
          pmcSettle := !s.pmcWritten && t.pmcWritten })

/-- CMP in all its forms, CMP0 and CMPS: only Z, AC and CY change. CMP has the flags of SUB; CMP0 clears AC and CY; CMPS sets
CY where the bytes differ or A or X is 0. -/
def Obligations.ByteCompares : Prop :=
  (∀ (d : Byte) (s : State), flows (.cmp (.aImm d)) s →
    exec (.cmp (.aImm d)) s =
      .next { s with
        psw := flags8 s.psw (sub8 (s.r8 s.bank .a) d false)
        pc := s.pc + 2, intInhibit := false, pmcSettle := false }) ∧
  (∀ (r : Reg8) (s : State), flows (.cmp (.aReg r)) s →
    exec (.cmp (.aReg r)) s =
      .next { s with
        psw := flags8 s.psw (sub8 (s.r8 s.bank .a) (s.r8 s.bank r) false)
        pc := s.pc + 2, intInhibit := false, pmcSettle := false }) ∧
  (∀ (r : Reg8) (s : State), flows (.cmp (.regA r)) s →
    exec (.cmp (.regA r)) s =
      .next { s with
        psw := flags8 s.psw (sub8 (s.r8 s.bank r) (s.r8 s.bank .a) false)
        pc := s.pc + 2, intInhibit := false, pmcSettle := false }) ∧
  (∀ (m : MemOp) (s t : State) (a : Nat) (v : Byte), byteAddr s m = .ok a → ByteRead s a v t →
    flows (.cmp (.aMem m)) s →
    exec (.cmp (.aMem m)) s =
      .next { t with
        psw := flags8 s.psw (sub8 (s.r8 s.bank .a) v false)
        pc := nextPc (.cmp (.aMem m)) s, intInhibit := false, pmcSettle := false }) ∧
  (∀ (off d : Byte) (s t : State) (v : Byte), ByteRead s (saddrAddr off) v t → flows (.cmp (.saddrImm off d)) s →
    exec (.cmp (.saddrImm off d)) s =
      .next { t with
        psw := flags8 s.psw (sub8 v d false), pc := s.pc + 3, intInhibit := false, pmcSettle := false }) ∧
  (∀ (es : Bool) (w : Word) (d : Byte) (s t : State) (v : Byte), ByteRead s (upper s es + w.toNat) v t →
    flows (.cmp (.absImm es w d)) s →
    exec (.cmp (.absImm es w d)) s =
      .next { t with
        psw := flags8 s.psw (sub8 v d false)
        pc := nextPc (.cmp (.absImm es w d)) s, intInhibit := false, pmcSettle := false }) ∧
  (∀ (r : Reg8) (s : State), flows (.cmp0R r) s →
    exec (.cmp0R r) s =
      .next { s with
        psw := setCY (setAC (setZ s.psw (s.r8 s.bank r == 0)) false) false
        pc := s.pc + 1, intInhibit := false, pmcSettle := false }) ∧
  (∀ (m : MemOp) (s t : State) (a : Nat) (v : Byte), byteAddr s m = .ok a → ByteRead s a v t → flows (.cmp0M m) s →
    exec (.cmp0M m) s =
      .next { t with
        psw := setCY (setAC (setZ s.psw (v == 0)) false) false
        pc := nextPc (.cmp0M m) s, intInhibit := false, pmcSettle := false }) ∧
  (∀ (es : Bool) (off : Byte) (s t : State) (a : Nat) (v : Byte), byteAddr s (.hlOff es off) = .ok a →
    ByteRead s a v t → flows (.cmps es off) s →
    exec (.cmps es off) s =
      .next { t with
        psw := setCY (setAC (setZ s.psw (s.r8 s.bank .x == v)) (sub8 (s.r8 s.bank .x) v false).ac)
          (s.r8 s.bank .x != v || s.r8 s.bank .a == 0 || s.r8 s.bank .x == 0)
        pc := nextPc (.cmps es off) s, intInhibit := false, pmcSettle := false })

/-- ADDW, SUBW, CMPW from an immediate, a pair or memory: AX (not for CMPW), Z and CY by the exact sum or difference; AC is
the next unconstrained bit, of which nothing is said (log 6). -/
def Obligations.WordOperations : Prop :=
  ∀ (o : AluWOp) (s t : State) (v : Word),
    ((o = .imm v ∧ t = s) ∨ (∃ rp, o = .reg rp ∧ v = s.r16 s.bank rp ∧ t = s) ∨
      (∃ m a, o = .mem m ∧ wordAddr s m = .ok a ∧ WordRead s a v t)) →
    (flows (.addw o) s →
      exec (.addw o) s =
        .next { t.setR16 s.bank .ax (add16 (s.r16 s.bank .ax) v).res with
          psw := setCY (setAC (setZ s.psw (add16 (s.r16 s.bank .ax) v).z) (Config.freeBit t.draws))
            (add16 (s.r16 s.bank .ax) v).cy
          draws := t.draws + 1, pc := nextPc (.addw o) s, intInhibit := false, pmcSettle := false }) ∧
    (flows (.subw o) s →
      exec (.subw o) s =
        .next { t.setR16 s.bank .ax (sub16 (s.r16 s.bank .ax) v).res with
          psw := setCY (setAC (setZ s.psw (sub16 (s.r16 s.bank .ax) v).z) (Config.freeBit t.draws))
            (sub16 (s.r16 s.bank .ax) v).cy
          draws := t.draws + 1, pc := nextPc (.subw o) s, intInhibit := false, pmcSettle := false }) ∧
    (flows (.cmpw o) s →
      exec (.cmpw o) s =
        .next { t with
          psw := setCY (setAC (setZ s.psw (sub16 (s.r16 s.bank .ax) v).z) (Config.freeBit t.draws))
            (sub16 (s.r16 s.bank .ax) v).cy
          draws := t.draws + 1, pc := nextPc (.cmpw o) s, intInhibit := false, pmcSettle := false })

/-- `MULU X` (R234), with its encoding: AX is the exact product of A and X as unsigned numbers; no flag changes. -/
def Obligations.MultiplyUnsigned : Prop :=
  decode [0xD6] = .ok (.mulu, 1) ∧
  ∀ s : State, flows .mulu s → ∃ p : Word,
    p.toNat = (s.r8 s.bank .a).toNat * (s.r8 s.bank .x).toNat ∧
    exec .mulu s = .next { s.setR16 s.bank .ax p with pc := s.pc + 1, intInhibit := false, pmcSettle := false }

/-! ### Increment, decrement, shift, rotate -/

/-- INC and DEC of a register or of a byte in memory: one read, one write of the value plus or less 1, Z by the result, AC by
the low nibble; CY stays. -/
def Obligations.ByteIncrementDecrement : Prop :=
  (∀ (r : Reg8) (s : State), flows (.incR r) s →
    exec (.incR r) s =
      .next { s.setR8 s.bank r (s.r8 s.bank r + 1) with
        psw := setAC (setZ s.psw (s.r8 s.bank r + 1 == 0)) (s.r8 s.bank r &&& 0x0F == 0x0F)
        pc := s.pc + 1, intInhibit := false, pmcSettle := false }) ∧
  (∀ (r : Reg8) (s : State), flows (.decR r) s →
    exec (.decR r) s =
      .next { s.setR8 s.bank r (s.r8 s.bank r - 1) with
        psw := setAC (setZ s.psw (s.r8 s.bank r - 1 == 0)) (s.r8 s.bank r &&& 0x0F == 0x00)
        pc := s.pc + 1, intInhibit := false, pmcSettle := false }) ∧
  (∀ (m : MemOp) (s u t : State) (a : Nat) (v : Byte), byteAddr s m = .ok a → ByteRead s a v u →
    fresh (.incM m) s [a] → ByteWritten u a (v + 1) t → flows (.incM m) s →
    exec (.incM m) s =
      .next { t with
        psw := setAC (setZ t.psw (v + 1 == 0)) (v &&& 0x0F == 0x0F)
        pc := nextPc (.incM m) s, intInhibit := false, pmcSettle := !s.pmcWritten && t.pmcWritten }) ∧
  (∀ (m : MemOp) (s u t : State) (a : Nat) (v : Byte), byteAddr s m = .ok a → ByteRead s a v u →
    fresh (.decM m) s [a] → ByteWritten u a (v - 1) t → flows (.decM m) s →
    exec (.decM m) s =
      .next { t with
        psw := setAC (setZ t.psw (v - 1 == 0)) (v &&& 0x0F == 0x00)
        pc := nextPc (.decM m) s, intInhibit := false, pmcSettle := !s.pmcWritten && t.pmcWritten })

/-- INCW and DECW of a pair or of a word in memory: 16-bit wrap, no flag. -/
def Obligations.WordIncrementDecrement : Prop :=
  (∀ (rp : Reg16) (s : State), flows (.incwR rp) s →
    exec (.incwR rp) s =
      .next { s.setR16 s.bank rp (s.r16 s.bank rp + 1) with
        pc := s.pc + 1, intInhibit := false, pmcSettle := false }) ∧
  (∀ (rp : Reg16) (s : State), flows (.decwR rp) s →
    exec (.decwR rp) s =
      .next { s.setR16 s.bank rp (s.r16 s.bank rp - 1) with
        pc := s.pc + 1, intInhibit := false, pmcSettle := false }) ∧
  (∀ (m : MemOp) (s u t : State) (a : Nat) (v : Word), wordAddr s m = .ok a → WordRead s a v u →
    fresh (.incwM m) s [a, a + 1] → WordWritten u a (v + 1) t → flows (.incwM m) s →
    exec (.incwM m) s =
      .next { t with
        pc := nextPc (.incwM m) s, intInhibit := false, pmcSettle := !s.pmcWritten && t.pmcWritten }) ∧
  (∀ (m : MemOp) (s u t : State) (a : Nat) (v : Word), wordAddr s m = .ok a → WordRead s a v u →
    fresh (.decwM m) s [a, a + 1] → WordWritten u a (v - 1) t → flows (.decwM m) s →
    exec (.decwM m) s =
      .next { t with
        pc := nextPc (.decwM m) s, intInhibit := false, pmcSettle := !s.pmcWritten && t.pmcWritten })

/-- SHR (R245), SAR (R249) on A, SHL on A, B, C (R247), and SHRW (R246), SARW (R250) on AX, SHLW on AX, BC (R248), with their
encodings: the shifted value, and the last bit shifted out in CY; no other flag. -/
def Obligations.Shifts : Prop :=
  (∀ c : BitVec 4, 1 ≤ c → c ≤ 7 →
    decode [0x31, c ++ 0xA#4] = .ok (.shr c, 2) ∧ decode [0x31, c ++ 0xB#4] = .ok (.sar c, 2) ∧
    decode [0x31, c ++ 0x9#4] = .ok (.shl .a c, 2) ∧ decode [0x31, c ++ 0x8#4] = .ok (.shl .b c, 2) ∧
    decode [0x31, c ++ 0x7#4] = .ok (.shl .c c, 2)) ∧
  (∀ c : BitVec 4, 1 ≤ c →
    decode [0x31, c ++ 0xE#4] = .ok (.shrw c, 2) ∧ decode [0x31, c ++ 0xF#4] = .ok (.sarw c, 2) ∧
    decode [0x31, c ++ 0xD#4] = .ok (.shlw .ax c, 2) ∧ decode [0x31, c ++ 0xC#4] = .ok (.shlw .bc c, 2)) ∧
  (∀ (c : BitVec 4) (s : State), flows (.shr c) s →
    exec (.shr c) s =
      .next { s.setR8 s.bank .a (s.r8 s.bank .a >>> c.toNat) with
        psw := setCY s.psw ((s.r8 s.bank .a).getLsbD (c.toNat - 1))
        pc := s.pc + 2, intInhibit := false, pmcSettle := false }) ∧
  (∀ (c : BitVec 4) (s : State), flows (.sar c) s →
    exec (.sar c) s =
      .next { s.setR8 s.bank .a ((s.r8 s.bank .a).sshiftRight c.toNat) with
        psw := setCY s.psw ((s.r8 s.bank .a).getLsbD (c.toNat - 1))
        pc := s.pc + 2, intInhibit := false, pmcSettle := false }) ∧
  (∀ (r : Reg8) (c : BitVec 4) (s : State), flows (.shl r c) s →
    exec (.shl r c) s =
      .next { s.setR8 s.bank r (s.r8 s.bank r <<< c.toNat) with
        psw := setCY s.psw ((s.r8 s.bank r).getLsbD (8 - c.toNat))
        pc := s.pc + 2, intInhibit := false, pmcSettle := false }) ∧
  (∀ (c : BitVec 4) (s : State), flows (.shrw c) s →
    exec (.shrw c) s =
      .next { s.setR16 s.bank .ax (s.r16 s.bank .ax >>> c.toNat) with
        psw := setCY s.psw ((s.r16 s.bank .ax).getLsbD (c.toNat - 1))
        pc := s.pc + 2, intInhibit := false, pmcSettle := false }) ∧
  (∀ (c : BitVec 4) (s : State), flows (.sarw c) s →
    exec (.sarw c) s =
      .next { s.setR16 s.bank .ax ((s.r16 s.bank .ax).sshiftRight c.toNat) with
        psw := setCY s.psw ((s.r16 s.bank .ax).getLsbD (c.toNat - 1))
        pc := s.pc + 2, intInhibit := false, pmcSettle := false }) ∧
  (∀ (rp : Reg16) (c : BitVec 4) (s : State), flows (.shlw rp c) s →
    exec (.shlw rp c) s =
      .next { s.setR16 s.bank rp (s.r16 s.bank rp <<< c.toNat) with
        psw := setCY s.psw ((s.r16 s.bank rp).getLsbD (16 - c.toNat))
        pc := s.pc + 2, intInhibit := false, pmcSettle := false })

/-- A shift by `n + 1` is the shift by `n` followed by the shift by 1, whose CY is the bit that leaves last: the manual's
operation "(CY <- dst0, dst(m-1) <- dst(m), ...) x cnt". -/
def Obligations.ShiftsRepeatOneBitSteps : Prop :=
  (∀ (v : Byte) (n : Nat), 1 ≤ n → n < 8 →
    shrByte v (n + 1) = shrByte (shrByte v n).1 1 ∧ sarByte v (n + 1) = sarByte (sarByte v n).1 1 ∧
    shlByte v (n + 1) = shlByte (shlByte v n).1 1) ∧
  (∀ (v : Word) (n : Nat), 1 ≤ n → n < 16 →
    shrWord v (n + 1) = shrWord (shrWord v n).1 1 ∧ sarWord v (n + 1) = sarWord (sarWord v n).1 1 ∧
    shlWord v (n + 1) = shlWord (shlWord v n).1 1) ∧
  (∀ v : Byte,
    shrByte v 1 = (v >>> 1, v.getLsbD 0) ∧ sarByte v 1 = (v >>> 1 ||| v &&& 0x80, v.getLsbD 0) ∧
    shlByte v 1 = (v + v, v.getLsbD 7)) ∧
  (∀ v : Word,
    shrWord v 1 = (v >>> 1, v.getLsbD 0) ∧ sarWord v 1 = (v >>> 1 ||| v &&& 0x8000, v.getLsbD 0) ∧
    shlWord v 1 = (v + v, v.getLsbD 15))

/-- ROR, ROL, RORC, ROLC and ROLWC with their encodings: ROR and ROL rotate the 8 bits and copy the moved bit to CY; RORC,
ROLC and ROLWC rotate through CY. No other flag changes. -/
def Obligations.Rotates : Prop :=
  (decode [0x61, 0xDB] = .ok (.ror, 2) ∧ decode [0x61, 0xEB] = .ok (.rol, 2) ∧ decode [0x61, 0xFB] = .ok (.rorc, 2) ∧
    decode [0x61, 0xDC] = .ok (.rolc, 2) ∧ decode [0x61, 0xEE] = .ok (.rolwc .ax, 2) ∧
    decode [0x61, 0xFE] = .ok (.rolwc .bc, 2)) ∧
  (∀ s : State, flows .ror s →
    exec .ror s =
      .next { s.setR8 s.bank .a ((s.r8 s.bank .a).rotateRight 1) with
        psw := setCY s.psw ((s.r8 s.bank .a).getLsbD 0), pc := s.pc + 2, intInhibit := false, pmcSettle := false }) ∧
  (∀ s : State, flows .rol s →
    exec .rol s =
      .next { s.setR8 s.bank .a ((s.r8 s.bank .a).rotateLeft 1) with
        psw := setCY s.psw ((s.r8 s.bank .a).getLsbD 7), pc := s.pc + 2, intInhibit := false, pmcSettle := false }) ∧
  (∀ s : State, flows .rorc s →
    exec .rorc s =
      .next { s.setR8 s.bank .a (BitVec.ofBool (pswCY s.psw) ++ (s.r8 s.bank .a).extractLsb' 1 7) with
        psw := setCY s.psw ((s.r8 s.bank .a).getLsbD 0), pc := s.pc + 2, intInhibit := false, pmcSettle := false }) ∧
  (∀ s : State, flows .rolc s →
    exec .rolc s =
      .next { s.setR8 s.bank .a ((s.r8 s.bank .a).extractLsb' 0 7 ++ BitVec.ofBool (pswCY s.psw)) with
        psw := setCY s.psw ((s.r8 s.bank .a).getLsbD 7), pc := s.pc + 2, intInhibit := false, pmcSettle := false }) ∧
  (∀ (rp : Reg16) (s : State), flows (.rolwc rp) s →
    exec (.rolwc rp) s =
      .next { s.setR16 s.bank rp ((s.r16 s.bank rp).extractLsb' 0 15 ++ BitVec.ofBool (pswCY s.psw)) with
        psw := setCY s.psw ((s.r16 s.bank rp).getLsbD 15)
        pc := s.pc + 2, intInhibit := false, pmcSettle := false })

/-! ### Bits -/

/-- MOV1 CY, AND1, OR1, XOR1: CY from CY and the named bit of A or of the operand byte, which is read once and not
written. -/
def Obligations.BitsToCarry : Prop :=
  ∀ (l : BitLoc) (n : BitVec 3) (s t : State) (v : Byte),
    ((l = .a ∧ v = s.r8 s.bank .a ∧ t = s) ∨ (∃ m a, l = .mem m ∧ byteAddr s m = .ok a ∧ ByteRead s a v t)) →
    (flows (.mov1Cy l n) s →
      exec (.mov1Cy l n) s =
        .next { t with
          psw := setCY s.psw (v.getLsbD n.toNat)
          pc := nextPc (.mov1Cy l n) s, intInhibit := false, pmcSettle := false }) ∧
    (flows (.and1 l n) s →
      exec (.and1 l n) s =
        .next { t with
          psw := setCY s.psw (pswCY s.psw && v.getLsbD n.toNat)
          pc := nextPc (.and1 l n) s, intInhibit := false, pmcSettle := false }) ∧
    (flows (.or1 l n) s →
      exec (.or1 l n) s =
        .next { t with
          psw := setCY s.psw (pswCY s.psw || v.getLsbD n.toNat)
          pc := nextPc (.or1 l n) s, intInhibit := false, pmcSettle := false }) ∧
    (flows (.xor1 l n) s →
      exec (.xor1 l n) s =
        .next { t with
          psw := setCY s.psw (xor (pswCY s.psw) (v.getLsbD n.toNat))
          pc := nextPc (.xor1 l n) s, intInhibit := false, pmcSettle := false })

/-- MOV1 dst, SET1, CLR1: the named bit takes CY, 1 or 0; in A, or by one read and one write of the whole byte. The PSW.bit
forms set `IntInhibit` (D10, log 22). -/
def Obligations.BitWrites : Prop :=
  ∀ (i : Instr) (b : Bool) (l : BitLoc) (n : BitVec 3) (s : State),
    ((i = .mov1Bit l n ∧ b = pswCY s.psw) ∨ (i = .set1 l n ∧ b = true) ∨ (i = .clr1 l n ∧ b = false)) → flows i s →
    (l = .a → exec i s =
      .next { s.setR8 s.bank .a (setBit8 (s.r8 s.bank .a) n.toNat b) with
        pc := s.pc + 2, intInhibit := false, pmcSettle := false }) ∧
    (∀ (m : MemOp) (u t : State) (a : Nat) (v : Byte), l = .mem m → byteAddr s m = .ok a → ByteRead s a v u →
      fresh i s [a] → ByteWritten u a (setBit8 v n.toNat b) t →
      exec i s =
        .next { t with
          pc := nextPc i s, intInhibit := decide (m = .sfr 0xFA)
          pmcSettle := !s.pmcWritten && t.pmcWritten })

/-- Writing one bit of a byte changes that bit and no other. -/
def Obligations.SetBitWritesOneBit : Prop :=
  ∀ (v : Byte) (n j : Nat) (b : Bool), n < 8 → j < 8 →
    (setBit8 v n b).getLsbD j = if j = n then b else v.getLsbD j

/-- SET1 CY (R278), CLR1 CY (R279), NOT1 CY (R280) with their encodings: CY becomes 1, 0 or its complement; Z and AC and
everything else stay; `IntInhibit` is not set. -/
def Obligations.CarryBitInstructions : Prop :=
  (decode [0x71, 0x80] = .ok (.set1Cy, 2) ∧ decode [0x71, 0x88] = .ok (.clr1Cy, 2) ∧
    decode [0x71, 0xC0] = .ok (.not1Cy, 2)) ∧
  (∀ s : State, flows .set1Cy s →
    exec .set1Cy s =
      .next { s with psw := s.psw ||| 0x01, pc := s.pc + 2, intInhibit := false, pmcSettle := false }) ∧
  (∀ s : State, flows .clr1Cy s →
    exec .clr1Cy s =
      .next { s with psw := s.psw &&& 0xFE, pc := s.pc + 2, intInhibit := false, pmcSettle := false }) ∧
  (∀ s : State, flows .not1Cy s →
    exec .not1Cy s =
      .next { s with psw := s.psw ^^^ 0x01, pc := s.pc + 2, intInhibit := false, pmcSettle := false })

/-! ### Calls, returns, the stack -/

/-- The frame of four bytes that CALL and BRK push, and SP less 4. -/
def Obligations.pushed (s : State) (ret : Addr) (top : Byte) : State :=
  { s with
    mem := memWrite (stackAddr s (-4)) (addrL ret) (memWrite (stackAddr s (-3)) (addrH ret)
      (memWrite (stackAddr s (-2)) (addrS ret) (memWrite (stackAddr s (-1)) top s.mem)))
    sp := s.sp - 4 }

/-- CALL in its four forms (R290 to R293), with their encodings: the return address under a 00H byte, SP - 4, and PC at
`CS[3:0] : rp`, at next + sext(jdisp16) in the same fetch region, at `0000 : addr16`, at addr20. The spec's choices in it: the
00H byte at SP-1 (C5, log 29), bits 7-4 of the byte at SP-2 as 0 and bits 7-4 of adrs ignored (D6, log 24), PC modulo 2^20
(D7, log 25). -/
def Obligations.Calls : Prop :=
  (∀ rp : Reg16, decode [0x61, 0xCA + 0x10 * rp.code] = .ok (.callR rp, 2)) ∧
  (∀ l h : Byte, decode [0xFE, l, h] = .ok (.callRel (h ++ l), 3) ∧ decode [0xFD, l, h] = .ok (.callAbs16 (h ++ l), 3)) ∧
  (∀ l h u : Byte, decode [0xFC, l, h, u] = .ok (.callAbs20 (u.extractLsb' 0 4 ++ h ++ l), 4)) ∧
  ∀ s : State, (∀ a ∈ frame4 s, inStack s.product a = true) →
    (∀ rp : Reg16, fresh (.callR rp) s (frame4 s) →
      exec (.callR rp) s =
        .next { Obligations.pushed s (s.pc + 2) 0x00 with
          pc := s.cs.extractLsb' 0 4 ++ s.r16 s.bank rp, intInhibit := false, pmcSettle := false }) ∧
    (∀ d : Word, fresh (.callRel d) s (frame4 s) →
      crosses s.product s.pc.toNat (s.pc + 3 + d.signExtend 20).toNat = false →
      exec (.callRel d) s =
        .next { Obligations.pushed s (s.pc + 3) 0x00 with
          pc := s.pc + 3 + d.signExtend 20, intInhibit := false, pmcSettle := false }) ∧
    (∀ w : Word, fresh (.callAbs16 w) s (frame4 s) →
      exec (.callAbs16 w) s =
        .next { Obligations.pushed s (s.pc + 3) 0x00 with
          pc := w.zeroExtend 20, intInhibit := false, pmcSettle := false }) ∧
    (∀ a : Addr, fresh (.callAbs20 a) s (frame4 s) →
      exec (.callAbs20 a) s =
        .next { Obligations.pushed s (s.pc + 4) 0x00 with pc := a, intInhibit := false, pmcSettle := false })

/-- CALLT (R294), with its encoding `61 1 k2 k1 k0 0 1 k4 k3`: the same frame, and PC at the word of the table entry
00080H + 2k, read as data. The frame's 00H byte is the choice of C5 (log 29), bits 7-4 of the byte at SP-2 as 0 that of D6
(log 24). -/
def Obligations.CallTable : Prop :=
  (∀ k : BitVec 5, decode [0x61, 1#1 ++ k.extractLsb' 0 3 ++ 1#2 ++ k.extractLsb' 3 2] = .ok (.callt k, 2)) ∧
  ∀ (k : BitVec 5) (w : Word) (s t : State), WordRead s (0x80 + 2 * k.toNat) w t →
    (∀ a ∈ frame4 s, inStack s.product a = true) → fresh (.callt k) s (frame4 s) →
    exec (.callt k) s =
      .next { Obligations.pushed t (s.pc + 2) 0x00 with
        pc := w.zeroExtend 20, intInhibit := false, pmcSettle := false }

/-- BRK (R295), with its encoding: the word at 0007EH, PSW and the address of the next instruction on the stack, IE cleared,
PC at `0000 : word`; ISP, RBS and the flags stay. Bits 7-4 of the byte at SP-2 as 0 are the choice of D6 (log 24). -/
def Obligations.SoftwareInterrupt : Prop :=
  decode [0x61, 0xCC] = .ok (.brk, 2) ∧
  ∀ (w : Word) (s t : State), WordRead s 0x7E w t → (∀ a ∈ frame4 s, inStack s.product a = true) →
    fresh .brk s (frame4 s) →
    exec .brk s =
      .next { Obligations.pushed t (s.pc + 2) s.psw with
        psw := s.psw &&& 0x7F, pc := w.zeroExtend 20, intInhibit := false, pmcSettle := false }

/-- RET (R296), RETI (R297), RETB (R298), with their encodings: RET takes PC from the three bytes at SP, SP+1, SP+2 (bits 7-4
of the third ignored) and reads no fourth byte; RETI and RETB also take all 8 bits of PSW from SP+3 and set `IntInhibit`.
SP + 4. That bits 7-4 are ignored is the choice of D6 (log 24), that RETI and RETB make the same change whatever entry the
frame is from that of D22 (log 28), the latch that of D10 (log 22). -/
def Obligations.Returns : Prop :=
  (decode [0xD7] = .ok (.ret, 1) ∧ decode [0x61, 0xFC] = .ok (.reti, 2) ∧ decode [0x61, 0xEC] = .ok (.retb, 2)) ∧
  ∀ (s : State) (l h u : Byte), memRead (stackAddr s 0) s.mem = some l → memRead (stackAddr s 1) s.mem = some h →
    memRead (stackAddr s 2) s.mem = some u → inStack s.product (stackAddr s 0) = true →
    inStack s.product (stackAddr s 1) = true → inStack s.product (stackAddr s 2) = true →
    exec .ret s =
      .next { s with pc := u.extractLsb' 0 4 ++ h ++ l, sp := s.sp + 4, intInhibit := false, pmcSettle := false } ∧
    (∀ (i : Instr) (p : Byte), i = .reti ∨ i = .retb → memRead (stackAddr s 3) s.mem = some p →
      inStack s.product (stackAddr s 3) = true →
      exec i s =
        .next { s with
          pc := u.extractLsb' 0 4 ++ h ++ l, psw := p, sp := s.sp + 4, intInhibit := true, pmcSettle := false })

/-- PUSH PSW (R299), PUSH rp (R300), POP PSW (R301), POP rp (R302), with their encodings: the bytes at SP-1, SP-2 or SP, SP+1,
and SP less or plus 2; POP PSW takes all 8 bits and sets `IntInhibit`; its byte at SP is not used. -/
def Obligations.PushAndPop : Prop :=
  (decode [0x61, 0xDD] = .ok (.pushPsw, 2) ∧ decode [0x61, 0xCD] = .ok (.popPsw, 2)) ∧
  (∀ rp : Reg16, decode [0xC1 + 2 * rp.code] = .ok (.pushR rp, 1) ∧ decode [0xC0 + 2 * rp.code] = .ok (.popR rp, 1)) ∧
  (∀ s : State, (∀ a ∈ frame2 s, inStack s.product a = true) → fresh .pushPsw s (frame2 s) → flows .pushPsw s →
    exec .pushPsw s =
      .next { s with
        mem := memWrite (stackAddr s (-2)) 0x00 (memWrite (stackAddr s (-1)) s.psw s.mem), sp := s.sp - 2
        pc := s.pc + 2, intInhibit := false, pmcSettle := false }) ∧
  (∀ (rp : Reg16) (s : State), (∀ a ∈ frame2 s, inStack s.product a = true) → fresh (.pushR rp) s (frame2 s) →
    flows (.pushR rp) s →
    exec (.pushR rp) s =
      .next { s with
        mem := memWrite (stackAddr s (-2)) (lo8 (s.r16 s.bank rp))
          (memWrite (stackAddr s (-1)) (hi8 (s.r16 s.bank rp)) s.mem)
        sp := s.sp - 2, pc := s.pc + 1, intInhibit := false, pmcSettle := false }) ∧
  (∀ (s : State) (p : Byte), memRead (stackAddr s 1) s.mem = some p → inStack s.product (stackAddr s 0) = true →
    inStack s.product (stackAddr s 1) = true → flows .popPsw s →
    exec .popPsw s =
      .next { s with psw := p, sp := s.sp + 2, pc := s.pc + 2, intInhibit := true, pmcSettle := false }) ∧
  (∀ (rp : Reg16) (s : State) (l h : Byte), memRead (stackAddr s 0) s.mem = some l →
    memRead (stackAddr s 1) s.mem = some h → inStack s.product (stackAddr s 0) = true →
    inStack s.product (stackAddr s 1) = true → flows (.popR rp) s →
    exec (.popR rp) s =
      .next { s.setR16 s.bank rp (h ++ l) with
        sp := s.sp + 2, pc := s.pc + 1, intInhibit := false, pmcSettle := false })

/-- RET right after a CALL or CALLT comes back to the instruction after the call with SP and PSW as before it; RETB right
after BRK does too, with PSW and so IE restored. Bits 7-4 of the stacked PC19-16 byte are the choice of D6 (log 24), the latch
that of D10 (log 22). -/
def Obligations.ReturnUndoesCall : Prop :=
  (∀ (i : Instr) (s t : State),
    ((∃ rp, i = .callR rp) ∨ (∃ d, i = .callRel d) ∨ (∃ w, i = .callAbs16 w) ∨ (∃ a, i = .callAbs20 a) ∨
      (∃ k, i = .callt k)) →
    exec i s = .next t →
    exec .ret t = .next { t with pc := nextPc i s, sp := s.sp, intInhibit := false, pmcSettle := false } ∧
      t.psw = s.psw) ∧
  (∀ s t : State, exec .brk s = .next t →
    exec .retb t = .next { t with pc := s.pc + 2, sp := s.sp, psw := s.psw, intInhibit := true, pmcSettle := false })

/-! ### Branches and skips -/

/-- BR in its five forms (R320 to R324), with their encodings: PC at `CS[3:0] : AX`, at `0000 : addr16`, at addr20, and at
next + sext(disp) modulo 2^20 where that lies in no other fetch region; nothing else changes. That bits 7-4 of adrs are
ignored is the choice of D6 (log 24), PC modulo 2^20 that of D7 (log 25). -/
def Obligations.UnconditionalBranches : Prop :=
  (decode [0x61, 0xCB] = .ok (.brAx, 2)) ∧
  (∀ d : Byte, decode [0xEF, d] = .ok (.brRel8 d, 2)) ∧
  (∀ l h : Byte, decode [0xEE, l, h] = .ok (.brRel16 (h ++ l), 3) ∧ decode [0xED, l, h] = .ok (.brAbs16 (h ++ l), 3)) ∧
  (∀ l h u : Byte, decode [0xEC, l, h, u] = .ok (.brAbs20 (u.extractLsb' 0 4 ++ h ++ l), 4)) ∧
  (∀ s : State, exec .brAx s =
    .next { s with pc := s.cs.extractLsb' 0 4 ++ s.r16 s.bank .ax, intInhibit := false, pmcSettle := false }) ∧
  (∀ (w : Word) (s : State), exec (.brAbs16 w) s =
    .next { s with pc := w.zeroExtend 20, intInhibit := false, pmcSettle := false }) ∧
  (∀ (a : Addr) (s : State), exec (.brAbs20 a) s =
    .next { s with pc := a, intInhibit := false, pmcSettle := false }) ∧
  (∀ (d : Byte) (s : State), crosses s.product s.pc.toNat (s.pc + 2 + d.signExtend 20).toNat = false →
    exec (.brRel8 d) s =
      .next { s with pc := s.pc + 2 + d.signExtend 20, intInhibit := false, pmcSettle := false }) ∧
  (∀ (d : Word) (s : State), crosses s.product s.pc.toNat (s.pc + 3 + d.signExtend 20).toNat = false →
    exec (.brRel16 d) s =
      .next { s with pc := s.pc + 3 + d.signExtend 20, intInhibit := false, pmcSettle := false })

/-- The conditions of BC, BNC, BZ, BNZ, BH, BNH, with their lengths. -/
def Obligations.conditions (d : Byte) (p : Byte) : List (Instr × Bool) :=
  [(.bc d, pswCY p), (.bnc d, !pswCY p), (.bz d, pswZ p), (.bnz d, !pswZ p), (.bh d, !pswZ p && !pswCY p),
   (.bnh d, pswZ p || pswCY p)]

/-- BC, BNC, BZ, BNZ, BH, BNH (R325 to R330), with their encodings: where the condition holds, PC at next + sext(disp) modulo
2^20 (the choice of D7, log 25) in no other fetch region; where it does not, at next. Nothing else changes. -/
def Obligations.ConditionalBranches : Prop :=
  (∀ d : Byte, decode [0xDC, d] = .ok (.bc d, 2) ∧ decode [0xDE, d] = .ok (.bnc d, 2) ∧
    decode [0xDD, d] = .ok (.bz d, 2) ∧ decode [0xDF, d] = .ok (.bnz d, 2) ∧
    decode [0x61, 0xC3, d] = .ok (.bh d, 3) ∧ decode [0x61, 0xD3, d] = .ok (.bnh d, 3)) ∧
  ∀ (i : Instr) (c : Bool) (d : Byte) (s : State), (i, c) ∈ Obligations.conditions d s.psw →
    (c = true → crosses s.product s.pc.toNat (nextPc i s + d.signExtend 20).toNat = false →
      exec i s = .next { s with pc := nextPc i s + d.signExtend 20, intInhibit := false, pmcSettle := false }) ∧
    (c = false → flows i s →
      exec i s = .next { s with pc := nextPc i s, intInhibit := false, pmcSettle := false })

/-- BT and BF: one read of the byte; the branch is taken where the bit is 1 (BT) or 0 (BF); nothing is written.
PC modulo 2^20 is the choice of D7 (log 25). -/
def Obligations.BitBranches : Prop :=
  ∀ (i : Instr) (want : Bool) (l : BitLoc) (n : BitVec 3) (d : Byte) (s t : State) (v : Byte),
    ((i = .bt l n d ∧ want = true) ∨ (i = .bf l n d ∧ want = false)) →
    ((l = .a ∧ v = s.r8 s.bank .a ∧ t = s) ∨ (∃ m a, l = .mem m ∧ byteAddr s m = .ok a ∧ ByteRead s a v t)) →
    (v.getLsbD n.toNat = want → crosses s.product s.pc.toNat (nextPc i s + d.signExtend 20).toNat = false →
      exec i s = .next { t with pc := nextPc i s + d.signExtend 20, intInhibit := false, pmcSettle := false }) ∧
    (v.getLsbD n.toNat = !want → flows i s →
      exec i s = .next { t with pc := nextPc i s, intInhibit := false, pmcSettle := false })

/-- BTCLR: where the bit is 1, the byte is written back with the bit cleared and the branch is taken; where it is 0, nothing
is written. The PSW.bit form sets `IntInhibit`, taken or not (D10, log 22). PC modulo 2^20 is the choice of D7 (log 25). -/
def Obligations.BitTestAndClear : Prop :=
  (∀ (n : BitVec 3) (d : Byte) (s : State),
    ((s.r8 s.bank .a).getLsbD n.toNat = true →
      crosses s.product s.pc.toNat (s.pc + 3 + d.signExtend 20).toNat = false →
      exec (.btclr .a n d) s =
        .next { s.setR8 s.bank .a (setBit8 (s.r8 s.bank .a) n.toNat false) with
          pc := s.pc + 3 + d.signExtend 20, intInhibit := false, pmcSettle := false }) ∧
    ((s.r8 s.bank .a).getLsbD n.toNat = false → flows (.btclr .a n d) s →
      exec (.btclr .a n d) s = .next { s with pc := s.pc + 3, intInhibit := false, pmcSettle := false })) ∧
  (∀ (m : MemOp) (n : BitVec 3) (d : Byte) (s u t : State) (a : Nat) (v : Byte), byteAddr s m = .ok a →
    ByteRead s a v u →
    (v.getLsbD n.toNat = true → fresh (.btclr (.mem m) n d) s [a] → ByteWritten u a (setBit8 v n.toNat false) t →
      crosses s.product s.pc.toNat (nextPc (.btclr (.mem m) n d) s + d.signExtend 20).toNat = false →
      exec (.btclr (.mem m) n d) s =
        .next { t with
          pc := nextPc (.btclr (.mem m) n d) s + d.signExtend 20, intInhibit := decide (m = .sfr 0xFA)
          pmcSettle := !s.pmcWritten && t.pmcWritten }) ∧
    (v.getLsbD n.toNat = false → flows (.btclr (.mem m) n d) s →
      exec (.btclr (.mem m) n d) s =
        .next { u with
          pc := nextPc (.btclr (.mem m) n d) s, intInhibit := decide (m = .sfr 0xFA), pmcSettle := false }))

/-- The conditions of SKC, SKNC, SKZ, SKNZ, SKH, SKNH. -/
def Obligations.skips (p : Byte) : List (Instr × Bool) :=
  [(.skc, pswCY p), (.sknc, !pswCY p), (.skz, pswZ p), (.sknz, !pswZ p), (.skh, !pswZ p && !pswCY p),
   (.sknh, pswZ p || pswCY p)]

/-- The skips (R334 to R340), with their encodings: where the condition holds, PC passes the whole instruction at next, of
whatever length, which has no other effect; where it does not, PC at next and `IntInhibit` set. Bytes at next that are no
instruction stop a taken skip. That a skip is one step, and that unassigned bytes behind a taken one are `IllegalEncoding`, are
the choices of D21 (log 26) and D3 (log 13). -/
def Obligations.ConditionalSkips : Prop :=
  (decode [0x61, 0xC8] = .ok (.skc, 2) ∧ decode [0x61, 0xD8] = .ok (.sknc, 2) ∧ decode [0x61, 0xE8] = .ok (.skz, 2) ∧
    decode [0x61, 0xF8] = .ok (.sknz, 2) ∧ decode [0x61, 0xE3] = .ok (.skh, 2) ∧ decode [0x61, 0xF3] = .ok (.sknh, 2)) ∧
  ∀ (i : Instr) (c : Bool) (s : State), (i, c) ∈ Obligations.skips s.psw → flows i s →
    (c = false → exec i s = .next { s with pc := s.pc + 2, intInhibit := true, pmcSettle := false }) ∧
    (∀ (j : Instr) (n : Nat), c = true → fetchAt s (s.pc + 2).toNat = .ok (j, n) → j ≠ .prefixAlone →
      crosses s.product s.pc.toNat (s.pc + 2 + BitVec.ofNat 20 n).toNat = false →
      exec i s =
        .next { s with pc := s.pc + 2 + BitVec.ofNat 20 n, intInhibit := false, pmcSettle := false }) ∧
    (c = true → (fetchAt s (s.pc + 2).toNat = .error .illegalEncoding ∨
        ∃ n, fetchAt s (s.pc + 2).toNat = .ok (.prefixAlone, n)) →
      exec i s = .fault .illegalEncoding)

/-! ### CPU control -/

/-- SEL (R350) writes RBS1 and RBS0 and no other bit; EI (R352) and DI (R353) write IE and set `IntInhibit`; HALT (R354) and
STOP (R355) set the mode. With their encodings. The latch is the spec's own decision D10 (log 22), the mode as a state of the
machine its decision D12 (log 11). -/
def Obligations.ControlInstructions : Prop :=
  (∀ n : BitVec 2, decode [0x61, 0b11#2 ++ n ++ 0xF#4] = .ok (.sel n, 2)) ∧
  (decode [0x71, 0x7A, 0xFA] = .ok (.ei, 3) ∧ decode [0x71, 0x7B, 0xFA] = .ok (.di, 3) ∧
    decode [0x61, 0xED] = .ok (.halt, 2) ∧ decode [0x61, 0xFD] = .ok (.stop, 2)) ∧
  (∀ (n : BitVec 2) (s : State), flows (.sel n) s → ∃ p : Byte, pswRBS p = n ∧ p &&& 0xD7 = s.psw &&& 0xD7 ∧
    exec (.sel n) s = .next { s with psw := p, pc := s.pc + 2, intInhibit := false, pmcSettle := false }) ∧
  (∀ s : State, flows .ei s →
    exec .ei s = .next { s with psw := s.psw ||| 0x80, pc := s.pc + 3, intInhibit := true, pmcSettle := false }) ∧
  (∀ s : State, flows .di s →
    exec .di s = .next { s with psw := s.psw &&& 0x7F, pc := s.pc + 3, intInhibit := true, pmcSettle := false }) ∧
  (∀ s : State, flows .halt s →
    exec .halt s = .next { s with mode := .halt, pc := s.pc + 2, intInhibit := false, pmcSettle := false }) ∧
  (∀ s : State, flows .stop s →
    exec .stop s = .next { s with mode := .stop, pc := s.pc + 2, intInhibit := false, pmcSettle := false })

/-- NOP (R351): the code 00H, PC at next, nothing else; `IntInhibit` is cleared as by every instruction that does not set
it. -/
def Obligations.NopOnlyAdvances : Prop :=
  decode [0x00] = .ok (.nop, 1) ∧
  ∀ s : State, flows .nop s →
    exec .nop s = .next { s with pc := s.pc + 1, intInhibit := false, pmcSettle := false }

/-! ### Where an access stops -/

/-- A stack access with a byte outside `RAM_BASE`..FFEDFH stops with `StackOutsideRam`, and commits nothing: PUSH, every form
of CALL, CALLT, BRK, the entry of an interrupt, POP, RET, RETI, RETB, and every instruction with the operand [SP+byte]. The
fault is the spec's own decision D5, which bytes are checked the model's reading (log 15), the unused byte at SP of POP PSW
among them a DESIGN CHOICE. Where the fetch window or a crossed region would stop the instruction too, nothing is said. Where
a byte outside the area also lies where no access succeeds, or a byte inside it has no value, `StackOutsideRam` is the one
reported by the model's order, a choice that the spec leaves open in D4 (log 14). -/
def Obligations.StackOutsideRamStops : Prop :=
  (∀ (i : Instr) (s : State), (i = .pushPsw ∨ ∃ rp, i = .pushR rp) → flows i s → fresh i s (frame2 s) →
    (∃ a ∈ frame2 s, inStack s.product a = false) → exec i s = .fault .stackOutsideRam) ∧
  (∀ (i : Instr) (s : State),
    ((∃ rp, i = .callR rp) ∨ (∃ w, i = .callAbs16 w) ∨ (∃ a, i = .callAbs20 a) ∨
      (∃ d, i = .callRel d ∧ crosses s.product s.pc.toNat (s.pc + 3 + d.signExtend 20).toNat = false) ∨
      (∃ k w t, i = .callt k ∧ WordRead s (0x80 + 2 * k.toNat) w t) ∨ (∃ w t, i = .brk ∧ WordRead s 0x7E w t)) →
    fresh i s (frame4 s) → (∃ a ∈ frame4 s, inStack s.product a = false) → exec i s = .fault .stackOutsideRam) ∧
  (∀ (s t : State) (q : Request) (c : Source) (rest : List Request) (w : Word), s.resetNow = false →
    pickRequest s s.pending = some (q, rest) → q.source s.product = some c → WordRead s c.vector w t →
    (∃ a ∈ frame4 s, inStack s.product a = false) → step s = .fault .stackOutsideRam) ∧
  (∀ (i : Instr) (s : State), (i = .popPsw ∨ ∃ rp, i = .popR rp) → flows i s →
    (∃ k ∈ ([0, 1] : List (BitVec 16)), inStack s.product (stackAddr s k) = false) →
    exec i s = .fault .stackOutsideRam) ∧
  (∀ s : State, (∃ k ∈ ([0, 1, 2] : List (BitVec 16)), inStack s.product (stackAddr s k) = false) →
    exec .ret s = .fault .stackOutsideRam) ∧
  (∀ s : State, (∃ k ∈ ([0, 1, 2, 3] : List (BitVec 16)), inStack s.product (stackAddr s k) = false) →
    exec .reti s = .fault .stackOutsideRam ∧ exec .retb s = .fault .stackOutsideRam) ∧
  (∀ (i : Instr) (off : Byte) (s : State), byteOperand i = some (.spOff off) → flows i s →
    s.sp.toNat + off.toNat ≤ 0xFFFF → inStack s.product (0xF0000 + (s.sp.toNat + off.toNat)) = false →
    exec i s = .fault .stackOutsideRam) ∧
  (∀ (i : Instr) (off : Byte) (s : State), wordOperand i = some (.spOff off) → flows i s →
    s.sp.toNat + off.toNat ≤ 0xFFFF → (s.sp.toNat + off.toNat) % 2 = 0 →
    (inStack s.product (0xF0000 + (s.sp.toNat + off.toNat)) = false ∨
      inStack s.product (0xF0000 + (s.sp.toNat + off.toNat) + 1) = false) →
    exec i s = .fault .stackOutsideRam)

/-- The sum that a based or based-indexed operand forms, and whether ES goes before it. -/
def Obligations.sumOf (s : State) : MemOp → Option (Bool × Nat)
  | .deOff es off => some (es, (s.r16 s.bank .de).toNat + off.toNat)
  | .hlOff es off => some (es, (s.r16 s.bank .hl).toNat + off.toNat)
  | .spOff off => some (false, s.sp.toNat + off.toNat)
  | .hlB es => some (es, (s.r16 s.bank .hl).toNat + (s.r8 s.bank .b).toNat)
  | .hlC es => some (es, (s.r16 s.bank .hl).toNat + (s.r8 s.bank .c).toNat)
  | .wordB es w => some (es, w.toNat + (s.r8 s.bank .b).toNat)
  | .wordC es w => some (es, w.toNat + (s.r8 s.bank .c).toNat)
  | .wordBC es w => some (es, w.toNat + (s.r16 s.bank .bc).toNat)
  | .saddr _ => none
  | .sfr _ => none
  | .abs _ _ => none
  | .de _ => none
  | .hl _ => none

/-- The two faults of an operand's address, for every instruction with a memory operand: a based or based-indexed sum above
FFFFH (FFFFFH with ES) is `AddressOverflow`; a word at an odd address computed from a register is `MisalignedWord`, while the
direct forms saddrp, sfrp and !addr16 clear bit 0. Both faults are the spec's own decisions D17 and D2 (log 30). Where the access
at the address would stop as well (read-only, unmapped, without a value, outside the stack's range), the address's fault is the
one reported by the model's order, a choice that the spec leaves open in D4 (logs 14, 15); where a crossed region would stop the
instruction too, or a word's sum that overflows is odd, nothing is said. -/
def Obligations.AddressFaults : Prop :=
  (∀ (i : Instr) (m : MemOp) (es : Bool) (n : Nat) (s : State), Obligations.sumOf s m = some (es, n) →
    (if es then 0xFFFFF else 0xFFFF) < (if es then (s.es.toNat % 16) * 0x10000 else 0) + n → flows i s →
    (byteOperand i = some m ∨ (wordOperand i = some m ∧ n % 2 = 0)) → exec i s = .fault .addressOverflow) ∧
  (∀ (i : Instr) (m : MemOp) (s : State) (a : Nat), wordOperand i = some m → isDirect m = false → ea s m = .ok a →
    a % 2 = 1 → (isStack m = true → inStack s.product a = true ∧ inStack s.product (a + 1) = true) → flows i s →
    exec i s = .fault .misalignedWord) ∧
  (∀ (m : MemOp) (s : State), isDirect m = true →
    ∃ a, byteAddr s m = .ok a ∧ wordAddr s m = .ok (a - a % 2) ∧ (a - a % 2) % 2 = 0)

/-- Where an instruction stops by the region of its memory operand, for every instruction that has one, byte or word: where
the read of the operand fails, and where the write fails, at once or after the read (`ByteReadFails`, `ByteWriteFails` and
their word forms give each region's fault), or meets the fetch window; and where CALLT and BRK cannot read their table word.
The faults are the spec's own decisions D4, D14, D15, D16, D19, D24 and the model's readings of them (logs 4, 7, 16, 17, 18,
19, 23, 35). Where the write would meet another fault than the read did, and where sequential flow fails as well, nothing is
said. Where faults hold together otherwise, the one reported is by the model's order, which is that of R363, a choice that the
spec leaves open in D4 (log 14): the two bytes of a word, a mirror read too early of a byte that is not there, a BTCLR whose
branch would cross. -/
def Obligations.RegionFaults : Prop :=
  (∀ (i : Instr) (m : MemOp) (s : State) (a : Nat), byteOperand i = some m → byteAddr s m = .ok a → flows i s →
    (∀ f, readsOperand i = true → ByteReadFails s a f →
      (storesOperand 0xFF i = true → fresh i s [a] ∧ ∀ g, ByteWriteFails s a g → g = f) → exec i s = .fault f) ∧
    (∀ (u : State) (f : Fault), AboutToStore i s a u → fresh i s [a] → ByteWriteFails u a f → exec i s = .fault f) ∧
    (∀ (u t : State) (v : Byte), AboutToStore i s a u → ¬ fresh i s [a] → ByteWritten u a v t →
      exec i s = .fault .staleFetch)) ∧
  (∀ (i : Instr) (m : MemOp) (s : State) (a : Nat), wordOperand i = some m → wordAddr s m = .ok a → flows i s →
    (∀ f, readsOperand i = true → WordReadFails s a f →
      (storesOperand 0xFF i = true → fresh i s [a, a + 1] ∧ ∀ v g, WordWriteFails s a v g → g = f) →
      exec i s = .fault f) ∧
    (∀ (u : State) (v : Word) (f : Fault), AboutToStoreWord i s a v u → fresh i s [a, a + 1] →
      WordWriteFails u a v f → exec i s = .fault f) ∧
    (∀ (u t : State) (v : Word), AboutToStoreWord i s a v u → ¬ fresh i s [a, a + 1] → WordWritten u a v t →
      exec i s = .fault .staleFetch)) ∧
  (∀ (k : BitVec 5) (s : State) (f : Fault), WordReadFails s (0x80 + 2 * k.toNat) f →
    (∀ a ∈ frame4 s, inStack s.product a = true) → fresh (.callt k) s (frame4 s) → exec (.callt k) s = .fault f) ∧
  (∀ (s : State) (f : Fault), WordReadFails s 0x7E f → (∀ a ∈ frame4 s, inStack s.product a = true) →
    fresh .brk s (frame4 s) → exec .brk s = .fault f)

/-- Control flow between the fetch regions (the spec's own decision D20, log 25). A relative branch that is taken into another
region is `CrossRegionRelative`: BR, CALL, the conditional branches, BT, BF, BTCLR. No sequential instruction completes by sequential flow
into another region: where its accesses succeed it is `FetchProhibited`, and so is a branch not taken, a skip, a taken skip
that passes into another region, and a fetch from a place that no instruction can be fetched from. Where a skip leaves its
region and the instruction behind it cannot be fetched or decoded either, the fault is by the model's order (log 14). -/
def Obligations.FetchRegionFaults : Prop :=
  (∀ (i : Instr) (d : Byte) (s : State), (i = .brRel8 d ∨ (i, true) ∈ Obligations.conditions d s.psw) →
    crosses s.product s.pc.toNat (nextPc i s + d.signExtend 20).toNat = true → exec i s = .fault .crossRegionRelative) ∧
  (∀ (d : Word) (s : State), crosses s.product s.pc.toNat (s.pc + 3 + d.signExtend 20).toNat = true →
    exec (.brRel16 d) s = .fault .crossRegionRelative ∧
    (fresh (.callRel d) s (frame4 s) → (∀ a ∈ frame4 s, inStack s.product a = true) →
      exec (.callRel d) s = .fault .crossRegionRelative)) ∧
  (∀ (i : Instr) (l : BitLoc) (n : BitVec 3) (d : Byte) (s t : State) (v : Byte),
    ((l = .a ∧ v = s.r8 s.bank .a ∧ t = s) ∨ (∃ m a, l = .mem m ∧ byteAddr s m = .ok a ∧ ByteRead s a v t)) →
    ((i = .bt l n d ∧ v.getLsbD n.toNat = true) ∨ (i = .bf l n d ∧ v.getLsbD n.toNat = false) ∨
      (i = .btclr l n d ∧ v.getLsbD n.toNat = true ∧ ∀ m a, l = .mem m → byteAddr s m = .ok a →
        fresh i s [a] ∧ ∃ u, ByteWritten t a (setBit8 v n.toNat false) u)) →
    crosses s.product s.pc.toNat (nextPc i s + d.signExtend 20).toNat = true → exec i s = .fault .crossRegionRelative) ∧
  (∀ (i : Instr) (s t : State), sequential i = true → exec i s = .next t → flows i s) ∧
  (∀ (i : Instr) (s : State), sequential i = true → AccessesSucceed i s → ¬ flows i s →
    exec i s = .fault .fetchProhibited) ∧
  (∀ (i : Instr) (d : Byte) (s : State), (i, false) ∈ Obligations.conditions d s.psw → ¬ flows i s →
    exec i s = .fault .fetchProhibited) ∧
  (∀ (i : Instr) (l : BitLoc) (n : BitVec 3) (d : Byte) (s t : State) (v : Byte),
    ((l = .a ∧ v = s.r8 s.bank .a ∧ t = s) ∨ (∃ m a, l = .mem m ∧ byteAddr s m = .ok a ∧ ByteRead s a v t)) →
    ((i = .bt l n d ∧ v.getLsbD n.toNat = false) ∨ (i = .bf l n d ∧ v.getLsbD n.toNat = true) ∨
      (i = .btclr l n d ∧ v.getLsbD n.toNat = false)) → ¬ flows i s → exec i s = .fault .fetchProhibited) ∧
  (∀ (i : Instr) (c : Bool) (s : State), (i, c) ∈ Obligations.skips s.psw →
    (¬ flows i s → exec i s = .fault .fetchProhibited) ∧
    (∀ f, flows i s → c = true → fetchAt s (s.pc + 2).toNat = .error f → exec i s = .fault f) ∧
    (∀ (j : Instr) (n : Nat), flows i s → c = true → fetchAt s (s.pc + 2).toNat = .ok (j, n) → j ≠ .prefixAlone →
      crosses s.product s.pc.toNat (s.pc + 2 + BitVec.ofNat 20 n).toNat = true →
      exec i s = .fault .fetchProhibited)) ∧
  (∀ s : State, s.resetNow = false → s.mode = .run → pickRequest s s.pending = none →
    fetchRegion s.product s.pc.toNat = none → step s = .fault .fetchProhibited)

/-! ### Interrupts, power states, reset -/

/-- When a request is accepted: never before it has arrived or while the CPU passes it by, never while `IntInhibit` is set (also
a non-maskable one, the spec's own decision D10, log 22), never from a source that the product does not have; a maskable one
only with IE = 1 and its level at most ISP (the direction of the comparison is log 10; a level and an ISP of one bit without
ISP1, log 33); a non-maskable one whatever IE and ISP are. The times are the model's own fields (log 8). -/
def Obligations.AcceptanceCondition : Prop :=
  ∀ (s : State) (q : Request),
    (s.intInhibit = true → acceptable s q = false) ∧
    (q.delay ≠ 0 ∨ q.latency ≠ 0 → acceptable s q = false) ∧
    (q.source s.product = none → acceptable s q = false) ∧
    ∀ c : Source, q.source s.product = some c →
      (c.kind = .maskable → pswIE s.psw = false → acceptable s q = false) ∧
      (s.intInhibit = false → q.delay = 0 → q.latency = 0 →
        (c.kind = .nonmaskable → acceptable s q = true) ∧
        (c.kind = .maskable → pswIE s.psw = true → s.product.hasIsp1 = true →
          (acceptable s q = true ↔ q.level ≤ pswISP s.psw)) ∧
        (c.kind = .maskable → pswIE s.psw = true → s.product.hasIsp1 = false →
          (acceptable s q = true ↔ (q.level.getLsbD 0 = true → s.psw.getLsbD 1 = true))))

/-- A step with an acceptable request takes the interrupt: PSW and the PC of the instruction not yet executed on the stack,
IE cleared, ISP by `isp_on_accept` (maskable; without ISP1 its bit 0 alone, bit 2 of PSW staying, log 33) or as before
(non-maskable), Mode Run, PC at the vector's word. The first acceptable request in the host's order is taken (log 8). That the
sequence is BRK's is the spec's own decision D11, bits 7-4 of the byte at SP-2 as 0 that of D6 (log 24). -/
def Obligations.InterruptEntry : Prop :=
  ∀ (s t : State) (q : Request) (c : Source) (rest : List Request) (w : Word), s.resetNow = false →
    pickRequest s s.pending = some (q, rest) → q.source s.product = some c → WordRead s c.vector w t →
    (∀ a ∈ frame4 s, inStack s.product a = true) →
    ∃ p : Byte,
      step s =
        .next { Obligations.pushed t s.pc s.psw with
          psw := p, pc := w.zeroExtend 20, mode := .run, intInhibit := false
          pending := rest.map (Request.tick s), resets := tickResets s.resets, hostOut := .accept q :: t.hostOut } ∧
      (c.kind = .nonmaskable → p = s.psw &&& 0x7F) ∧
      (c.kind = .maskable → s.product.hasIsp1 = true →
        p &&& 0xF9 = s.psw &&& 0x79 ∧ pswISP p = s.product.ispOnAccept[q.level.toNat]'q.level.isLt) ∧
      (c.kind = .maskable → s.product.hasIsp1 = false →
        p &&& 0xFD = s.psw &&& 0x7D ∧
        p.getLsbD 1 = (s.product.ispOnAccept[q.level.toNat]'q.level.isLt).getLsbD 0)

/-- RETI at the end of a handler that has balanced its stack: PC, PSW and SP are those of the interrupted program, and
`IntInhibit` keeps the next request off for one instruction (D10, log 22). Bits 7-4 of the stacked PC19-16 byte are the choice of
D6 (log 24). -/
def Obligations.RetiResumesInterrupted : Prop :=
  ∀ (s t u : State) (q : Request) (rest : List Request), s.resetNow = false →
    pickRequest s s.pending = some (q, rest) → step s = .next t →
    u.sp = t.sp → u.product = t.product → (∀ a ∈ frame4 s, memRead a u.mem = memRead a t.mem) →
    exec .reti u =
      .next { u with pc := s.pc, psw := s.psw, sp := s.sp, intInhibit := true, pmcSettle := false } ∧
    t.mode = .run ∧ pswIE t.psw = false

/-- In HALT and STOP mode with no request to accept, a step runs no instruction and changes nothing but the times of the
requests and resets (logs 8, 12) and, where a maskable request has arrived while IE = 0 and the product wakes on it, the
mode (the spec's own decision D12, log 11). -/
def Obligations.StandbySteps : Prop :=
  ∀ s : State, s.resetNow = false → s.mode ≠ .run → pickRequest s s.pending = none →
    step s = .next { s with
      pending := s.pending.map (Request.tick s), resets := tickResets s.resets
      mode := if s.product.wakeOnMaskedIE0 = true ∧ pswIE s.psw = false ∧
          (∃ q ∈ s.pending, (∃ c, q.source s.product = some c ∧ c.kind = .maskable) ∧ q.delay = 0) then .run
        else s.mode }

/-- The reset event: the reset values, RAM without a value, flash and external memory kept, nothing stacked, PC at the word
of the RESET vector. That PC is the word at the RESET vector is the spec's own decision D13, the vector's address a parameter
(log 12); that the latches are 0 and the mode is Run are its decisions D10, D14 (logs 22, 23) and D12 (log 11). The registers
and SP take the values of logs 1 and 2, RAM has no value by D4 (log 4). When the event comes is the host's, in the list `resets`
(log 12); the waiting requests have passed one boundary, the model's own times (log 8). -/
def Obligations.ResetEvent : Prop :=
  ∀ (s : State) (l h : Byte), s.resetNow = true → s.product.ok = true →
    memRead s.product.resetVectorAddr s.mem = some l → memRead (s.product.resetVectorAddr + 1) s.mem = some h →
    step s = .next { State.reset with
      product := s.product, mem := dropRam s.product s.mem, pending := s.pending.map (Request.tick s)
      resets := s.resets.tail, devIn := s.devIn, hostOut := s.hostOut, draws := s.draws, pc := (h ++ l).zeroExtend 20 }

/-- The registers are RAM bytes: a data access to FFEF8H - 8 * RBS + n reads and writes the register n of the running bank,
and a bank switch only renames the bytes. -/
def Obligations.RegistersAreMemory : Prop :=
  (∀ (s : State) (r : Reg8), ByteRead s (0xFFEF8 - 8 * (pswRBS s.psw).toNat + regNum r) (s.r8 s.bank r) s) ∧
  (∀ (s t : State) (r : Reg8) (v : Byte), ByteWritten s (0xFFEF8 - 8 * (pswRBS s.psw).toNat + regNum r) v t →
    t = s.setR8 s.bank r v ∧ t.r8 s.bank r = v ∧ ∀ r', r' ≠ r → t.r8 s.bank r' = s.r8 s.bank r') ∧
  (∀ (s t : State) (n : BitVec 2), exec (.sel n) s = .next t → t.regs = s.regs ∧ t.bank = n)
end

