-- ==== Sys2Proof/Laws/State.lean ====
section
/-! SUPPORT. One lemma for each field of the state and each named update, so that no proof unfolds an update. -/

namespace Sys2Proof.Machine

-- One proof at a time: many at once would each take a thread and its stack.
set_option Elab.async false

/-! ### `State.setRegByte` -/

@[simp] theorem State.setRegByte_pc (s : State) (k : Nat) (v : Byte) : (s.setRegByte k v).pc = s.pc := rfl

@[simp] theorem State.setRegByte_psw (s : State) (k : Nat) (v : Byte) : (s.setRegByte k v).psw = s.psw := rfl

@[simp] theorem State.setRegByte_sp (s : State) (k : Nat) (v : Byte) : (s.setRegByte k v).sp = s.sp := rfl

@[simp] theorem State.setRegByte_regs (s : State) (k : Nat) (v : Byte) :
    (s.setRegByte k v).regs = s.regs.setIfInBounds k v := rfl

@[simp] theorem State.setRegByte_es (s : State) (k : Nat) (v : Byte) : (s.setRegByte k v).es = s.es := rfl

@[simp] theorem State.setRegByte_cs (s : State) (k : Nat) (v : Byte) : (s.setRegByte k v).cs = s.cs := rfl

@[simp] theorem State.setRegByte_pmc (s : State) (k : Nat) (v : Byte) : (s.setRegByte k v).pmc = s.pmc := rfl

@[simp] theorem State.setRegByte_intInhibit (s : State) (k : Nat) (v : Byte) :
    (s.setRegByte k v).intInhibit = s.intInhibit := rfl

@[simp] theorem State.setRegByte_pmcSettle (s : State) (k : Nat) (v : Byte) :
    (s.setRegByte k v).pmcSettle = s.pmcSettle := rfl

@[simp] theorem State.setRegByte_pmcWritten (s : State) (k : Nat) (v : Byte) :
    (s.setRegByte k v).pmcWritten = s.pmcWritten := rfl

@[simp] theorem State.setRegByte_mode (s : State) (k : Nat) (v : Byte) : (s.setRegByte k v).mode = s.mode := rfl

@[simp] theorem State.setRegByte_mem (s : State) (k : Nat) (v : Byte) : (s.setRegByte k v).mem = s.mem := rfl

@[simp] theorem State.setRegByte_product (s : State) (k : Nat) (v : Byte) :
    (s.setRegByte k v).product = s.product := rfl

@[simp] theorem State.setRegByte_pending (s : State) (k : Nat) (v : Byte) :
    (s.setRegByte k v).pending = s.pending := rfl

@[simp] theorem State.setRegByte_resets (s : State) (k : Nat) (v : Byte) : (s.setRegByte k v).resets = s.resets := rfl

@[simp] theorem State.setRegByte_devIn (s : State) (k : Nat) (v : Byte) : (s.setRegByte k v).devIn = s.devIn := rfl

@[simp] theorem State.setRegByte_hostOut (s : State) (k : Nat) (v : Byte) :
    (s.setRegByte k v).hostOut = s.hostOut := rfl

@[simp] theorem State.setRegByte_draws (s : State) (k : Nat) (v : Byte) : (s.setRegByte k v).draws = s.draws := rfl

/-! ### `State.setR8` -/

@[simp] theorem State.setR8_pc (s : State) (b : BitVec 2) (r : Reg8) (v : Byte) : (s.setR8 b r v).pc = s.pc := rfl

@[simp] theorem State.setR8_psw (s : State) (b : BitVec 2) (r : Reg8) (v : Byte) : (s.setR8 b r v).psw = s.psw := rfl

@[simp] theorem State.setR8_sp (s : State) (b : BitVec 2) (r : Reg8) (v : Byte) : (s.setR8 b r v).sp = s.sp := rfl

@[simp] theorem State.setR8_regs (s : State) (b : BitVec 2) (r : Reg8) (v : Byte) :
    (s.setR8 b r v).regs = s.regs.setIfInBounds (regIndex b r) v := rfl

@[simp] theorem State.setR8_es (s : State) (b : BitVec 2) (r : Reg8) (v : Byte) : (s.setR8 b r v).es = s.es := rfl

@[simp] theorem State.setR8_cs (s : State) (b : BitVec 2) (r : Reg8) (v : Byte) : (s.setR8 b r v).cs = s.cs := rfl

@[simp] theorem State.setR8_pmc (s : State) (b : BitVec 2) (r : Reg8) (v : Byte) : (s.setR8 b r v).pmc = s.pmc := rfl

@[simp] theorem State.setR8_intInhibit (s : State) (b : BitVec 2) (r : Reg8) (v : Byte) :
    (s.setR8 b r v).intInhibit = s.intInhibit := rfl

@[simp] theorem State.setR8_pmcSettle (s : State) (b : BitVec 2) (r : Reg8) (v : Byte) :
    (s.setR8 b r v).pmcSettle = s.pmcSettle := rfl

@[simp] theorem State.setR8_pmcWritten (s : State) (b : BitVec 2) (r : Reg8) (v : Byte) :
    (s.setR8 b r v).pmcWritten = s.pmcWritten := rfl

@[simp] theorem State.setR8_mode (s : State) (b : BitVec 2) (r : Reg8) (v : Byte) :
    (s.setR8 b r v).mode = s.mode := rfl

@[simp] theorem State.setR8_mem (s : State) (b : BitVec 2) (r : Reg8) (v : Byte) : (s.setR8 b r v).mem = s.mem := rfl

@[simp] theorem State.setR8_product (s : State) (b : BitVec 2) (r : Reg8) (v : Byte) :
    (s.setR8 b r v).product = s.product := rfl

@[simp] theorem State.setR8_pending (s : State) (b : BitVec 2) (r : Reg8) (v : Byte) :
    (s.setR8 b r v).pending = s.pending := rfl

@[simp] theorem State.setR8_resets (s : State) (b : BitVec 2) (r : Reg8) (v : Byte) :
    (s.setR8 b r v).resets = s.resets := rfl

@[simp] theorem State.setR8_devIn (s : State) (b : BitVec 2) (r : Reg8) (v : Byte) :
    (s.setR8 b r v).devIn = s.devIn := rfl

@[simp] theorem State.setR8_hostOut (s : State) (b : BitVec 2) (r : Reg8) (v : Byte) :
    (s.setR8 b r v).hostOut = s.hostOut := rfl

@[simp] theorem State.setR8_draws (s : State) (b : BitVec 2) (r : Reg8) (v : Byte) :
    (s.setR8 b r v).draws = s.draws := rfl

/-! ### `State.setR16` -/

@[simp] theorem State.setR16_pc (s : State) (b : BitVec 2) (rp : Reg16) (v : Word) :
    (s.setR16 b rp v).pc = s.pc := rfl

@[simp] theorem State.setR16_psw (s : State) (b : BitVec 2) (rp : Reg16) (v : Word) :
    (s.setR16 b rp v).psw = s.psw := rfl

@[simp] theorem State.setR16_sp (s : State) (b : BitVec 2) (rp : Reg16) (v : Word) :
    (s.setR16 b rp v).sp = s.sp := rfl

@[simp] theorem State.setR16_es (s : State) (b : BitVec 2) (rp : Reg16) (v : Word) :
    (s.setR16 b rp v).es = s.es := rfl

@[simp] theorem State.setR16_cs (s : State) (b : BitVec 2) (rp : Reg16) (v : Word) :
    (s.setR16 b rp v).cs = s.cs := rfl

@[simp] theorem State.setR16_pmc (s : State) (b : BitVec 2) (rp : Reg16) (v : Word) :
    (s.setR16 b rp v).pmc = s.pmc := rfl

@[simp] theorem State.setR16_intInhibit (s : State) (b : BitVec 2) (rp : Reg16) (v : Word) :
    (s.setR16 b rp v).intInhibit = s.intInhibit := rfl

@[simp] theorem State.setR16_pmcSettle (s : State) (b : BitVec 2) (rp : Reg16) (v : Word) :
    (s.setR16 b rp v).pmcSettle = s.pmcSettle := rfl

@[simp] theorem State.setR16_pmcWritten (s : State) (b : BitVec 2) (rp : Reg16) (v : Word) :
    (s.setR16 b rp v).pmcWritten = s.pmcWritten := rfl

@[simp] theorem State.setR16_mode (s : State) (b : BitVec 2) (rp : Reg16) (v : Word) :
    (s.setR16 b rp v).mode = s.mode := rfl

@[simp] theorem State.setR16_mem (s : State) (b : BitVec 2) (rp : Reg16) (v : Word) :
    (s.setR16 b rp v).mem = s.mem := rfl

@[simp] theorem State.setR16_product (s : State) (b : BitVec 2) (rp : Reg16) (v : Word) :
    (s.setR16 b rp v).product = s.product := rfl

@[simp] theorem State.setR16_pending (s : State) (b : BitVec 2) (rp : Reg16) (v : Word) :
    (s.setR16 b rp v).pending = s.pending := rfl

@[simp] theorem State.setR16_resets (s : State) (b : BitVec 2) (rp : Reg16) (v : Word) :
    (s.setR16 b rp v).resets = s.resets := rfl

@[simp] theorem State.setR16_devIn (s : State) (b : BitVec 2) (rp : Reg16) (v : Word) :
    (s.setR16 b rp v).devIn = s.devIn := rfl

@[simp] theorem State.setR16_hostOut (s : State) (b : BitVec 2) (rp : Reg16) (v : Word) :
    (s.setR16 b rp v).hostOut = s.hostOut := rfl

@[simp] theorem State.setR16_draws (s : State) (b : BitVec 2) (rp : Reg16) (v : Word) :
    (s.setR16 b rp v).draws = s.draws := rfl

/-! ### `State.setSp` -/

@[simp] theorem State.setSp_pc (s : State) (v : Word) : (s.setSp v).pc = s.pc := rfl

@[simp] theorem State.setSp_psw (s : State) (v : Word) : (s.setSp v).psw = s.psw := rfl

@[simp] theorem State.setSp_sp (s : State) (v : Word) : (s.setSp v).sp = v &&& 0xFFFE := rfl

@[simp] theorem State.setSp_regs (s : State) (v : Word) : (s.setSp v).regs = s.regs := rfl

@[simp] theorem State.setSp_es (s : State) (v : Word) : (s.setSp v).es = s.es := rfl

@[simp] theorem State.setSp_cs (s : State) (v : Word) : (s.setSp v).cs = s.cs := rfl

@[simp] theorem State.setSp_pmc (s : State) (v : Word) : (s.setSp v).pmc = s.pmc := rfl

@[simp] theorem State.setSp_intInhibit (s : State) (v : Word) : (s.setSp v).intInhibit = s.intInhibit := rfl

@[simp] theorem State.setSp_pmcSettle (s : State) (v : Word) : (s.setSp v).pmcSettle = s.pmcSettle := rfl

@[simp] theorem State.setSp_pmcWritten (s : State) (v : Word) : (s.setSp v).pmcWritten = s.pmcWritten := rfl

@[simp] theorem State.setSp_mode (s : State) (v : Word) : (s.setSp v).mode = s.mode := rfl

@[simp] theorem State.setSp_mem (s : State) (v : Word) : (s.setSp v).mem = s.mem := rfl

@[simp] theorem State.setSp_product (s : State) (v : Word) : (s.setSp v).product = s.product := rfl

@[simp] theorem State.setSp_pending (s : State) (v : Word) : (s.setSp v).pending = s.pending := rfl

@[simp] theorem State.setSp_resets (s : State) (v : Word) : (s.setSp v).resets = s.resets := rfl

@[simp] theorem State.setSp_devIn (s : State) (v : Word) : (s.setSp v).devIn = s.devIn := rfl

@[simp] theorem State.setSp_hostOut (s : State) (v : Word) : (s.setSp v).hostOut = s.hostOut := rfl

@[simp] theorem State.setSp_draws (s : State) (v : Word) : (s.setSp v).draws = s.draws := rfl

/-! ### `State.setEs` -/

@[simp] theorem State.setEs_pc (s : State) (v : Byte) : (s.setEs v).pc = s.pc := rfl

@[simp] theorem State.setEs_psw (s : State) (v : Byte) : (s.setEs v).psw = s.psw := rfl

@[simp] theorem State.setEs_sp (s : State) (v : Byte) : (s.setEs v).sp = s.sp := rfl

@[simp] theorem State.setEs_regs (s : State) (v : Byte) : (s.setEs v).regs = s.regs := rfl

@[simp] theorem State.setEs_es (s : State) (v : Byte) : (s.setEs v).es = v &&& 0x0F := rfl

@[simp] theorem State.setEs_cs (s : State) (v : Byte) : (s.setEs v).cs = s.cs := rfl

@[simp] theorem State.setEs_pmc (s : State) (v : Byte) : (s.setEs v).pmc = s.pmc := rfl

@[simp] theorem State.setEs_intInhibit (s : State) (v : Byte) : (s.setEs v).intInhibit = s.intInhibit := rfl

@[simp] theorem State.setEs_pmcSettle (s : State) (v : Byte) : (s.setEs v).pmcSettle = s.pmcSettle := rfl

@[simp] theorem State.setEs_pmcWritten (s : State) (v : Byte) : (s.setEs v).pmcWritten = s.pmcWritten := rfl

@[simp] theorem State.setEs_mode (s : State) (v : Byte) : (s.setEs v).mode = s.mode := rfl

@[simp] theorem State.setEs_mem (s : State) (v : Byte) : (s.setEs v).mem = s.mem := rfl

@[simp] theorem State.setEs_product (s : State) (v : Byte) : (s.setEs v).product = s.product := rfl

@[simp] theorem State.setEs_pending (s : State) (v : Byte) : (s.setEs v).pending = s.pending := rfl

@[simp] theorem State.setEs_resets (s : State) (v : Byte) : (s.setEs v).resets = s.resets := rfl

@[simp] theorem State.setEs_devIn (s : State) (v : Byte) : (s.setEs v).devIn = s.devIn := rfl

@[simp] theorem State.setEs_hostOut (s : State) (v : Byte) : (s.setEs v).hostOut = s.hostOut := rfl

@[simp] theorem State.setEs_draws (s : State) (v : Byte) : (s.setEs v).draws = s.draws := rfl

/-! ### `State.setCs` -/

@[simp] theorem State.setCs_pc (s : State) (v : Byte) : (s.setCs v).pc = s.pc := rfl

@[simp] theorem State.setCs_psw (s : State) (v : Byte) : (s.setCs v).psw = s.psw := rfl

@[simp] theorem State.setCs_sp (s : State) (v : Byte) : (s.setCs v).sp = s.sp := rfl

@[simp] theorem State.setCs_regs (s : State) (v : Byte) : (s.setCs v).regs = s.regs := rfl

@[simp] theorem State.setCs_es (s : State) (v : Byte) : (s.setCs v).es = s.es := rfl

@[simp] theorem State.setCs_cs (s : State) (v : Byte) : (s.setCs v).cs = v &&& 0x0F := rfl

@[simp] theorem State.setCs_pmc (s : State) (v : Byte) : (s.setCs v).pmc = s.pmc := rfl

@[simp] theorem State.setCs_intInhibit (s : State) (v : Byte) : (s.setCs v).intInhibit = s.intInhibit := rfl

@[simp] theorem State.setCs_pmcSettle (s : State) (v : Byte) : (s.setCs v).pmcSettle = s.pmcSettle := rfl

@[simp] theorem State.setCs_pmcWritten (s : State) (v : Byte) : (s.setCs v).pmcWritten = s.pmcWritten := rfl

@[simp] theorem State.setCs_mode (s : State) (v : Byte) : (s.setCs v).mode = s.mode := rfl

@[simp] theorem State.setCs_mem (s : State) (v : Byte) : (s.setCs v).mem = s.mem := rfl

@[simp] theorem State.setCs_product (s : State) (v : Byte) : (s.setCs v).product = s.product := rfl

@[simp] theorem State.setCs_pending (s : State) (v : Byte) : (s.setCs v).pending = s.pending := rfl

@[simp] theorem State.setCs_resets (s : State) (v : Byte) : (s.setCs v).resets = s.resets := rfl

@[simp] theorem State.setCs_devIn (s : State) (v : Byte) : (s.setCs v).devIn = s.devIn := rfl

@[simp] theorem State.setCs_hostOut (s : State) (v : Byte) : (s.setCs v).hostOut = s.hostOut := rfl

@[simp] theorem State.setCs_draws (s : State) (v : Byte) : (s.setCs v).draws = s.draws := rfl

/-! ### `State.setPsw` -/

@[simp] theorem State.setPsw_pc (s : State) (v : Byte) : (s.setPsw v).pc = s.pc := rfl

@[simp] theorem State.setPsw_psw (s : State) (v : Byte) : (s.setPsw v).psw = v := rfl

@[simp] theorem State.setPsw_sp (s : State) (v : Byte) : (s.setPsw v).sp = s.sp := rfl

@[simp] theorem State.setPsw_regs (s : State) (v : Byte) : (s.setPsw v).regs = s.regs := rfl

@[simp] theorem State.setPsw_es (s : State) (v : Byte) : (s.setPsw v).es = s.es := rfl

@[simp] theorem State.setPsw_cs (s : State) (v : Byte) : (s.setPsw v).cs = s.cs := rfl

@[simp] theorem State.setPsw_pmc (s : State) (v : Byte) : (s.setPsw v).pmc = s.pmc := rfl

@[simp] theorem State.setPsw_intInhibit (s : State) (v : Byte) : (s.setPsw v).intInhibit = s.intInhibit := rfl

@[simp] theorem State.setPsw_pmcSettle (s : State) (v : Byte) : (s.setPsw v).pmcSettle = s.pmcSettle := rfl

@[simp] theorem State.setPsw_pmcWritten (s : State) (v : Byte) : (s.setPsw v).pmcWritten = s.pmcWritten := rfl

@[simp] theorem State.setPsw_mode (s : State) (v : Byte) : (s.setPsw v).mode = s.mode := rfl

@[simp] theorem State.setPsw_mem (s : State) (v : Byte) : (s.setPsw v).mem = s.mem := rfl

@[simp] theorem State.setPsw_product (s : State) (v : Byte) : (s.setPsw v).product = s.product := rfl

@[simp] theorem State.setPsw_pending (s : State) (v : Byte) : (s.setPsw v).pending = s.pending := rfl

@[simp] theorem State.setPsw_resets (s : State) (v : Byte) : (s.setPsw v).resets = s.resets := rfl

@[simp] theorem State.setPsw_devIn (s : State) (v : Byte) : (s.setPsw v).devIn = s.devIn := rfl

@[simp] theorem State.setPsw_hostOut (s : State) (v : Byte) : (s.setPsw v).hostOut = s.hostOut := rfl

@[simp] theorem State.setPsw_draws (s : State) (v : Byte) : (s.setPsw v).draws = s.draws := rfl

/-! ### `State.setCy` -/

@[simp] theorem State.setCy_pc (s : State) (b : Bool) : (s.setCy b).pc = s.pc := rfl

@[simp] theorem State.setCy_psw (s : State) (b : Bool) : (s.setCy b).psw = setCY s.psw b := rfl

@[simp] theorem State.setCy_sp (s : State) (b : Bool) : (s.setCy b).sp = s.sp := rfl

@[simp] theorem State.setCy_regs (s : State) (b : Bool) : (s.setCy b).regs = s.regs := rfl

@[simp] theorem State.setCy_es (s : State) (b : Bool) : (s.setCy b).es = s.es := rfl

@[simp] theorem State.setCy_cs (s : State) (b : Bool) : (s.setCy b).cs = s.cs := rfl

@[simp] theorem State.setCy_pmc (s : State) (b : Bool) : (s.setCy b).pmc = s.pmc := rfl

@[simp] theorem State.setCy_intInhibit (s : State) (b : Bool) : (s.setCy b).intInhibit = s.intInhibit := rfl

@[simp] theorem State.setCy_pmcSettle (s : State) (b : Bool) : (s.setCy b).pmcSettle = s.pmcSettle := rfl

@[simp] theorem State.setCy_pmcWritten (s : State) (b : Bool) : (s.setCy b).pmcWritten = s.pmcWritten := rfl

@[simp] theorem State.setCy_mode (s : State) (b : Bool) : (s.setCy b).mode = s.mode := rfl

@[simp] theorem State.setCy_mem (s : State) (b : Bool) : (s.setCy b).mem = s.mem := rfl

@[simp] theorem State.setCy_product (s : State) (b : Bool) : (s.setCy b).product = s.product := rfl

@[simp] theorem State.setCy_pending (s : State) (b : Bool) : (s.setCy b).pending = s.pending := rfl

@[simp] theorem State.setCy_resets (s : State) (b : Bool) : (s.setCy b).resets = s.resets := rfl

@[simp] theorem State.setCy_devIn (s : State) (b : Bool) : (s.setCy b).devIn = s.devIn := rfl

@[simp] theorem State.setCy_hostOut (s : State) (b : Bool) : (s.setCy b).hostOut = s.hostOut := rfl

@[simp] theorem State.setCy_draws (s : State) (b : Bool) : (s.setCy b).draws = s.draws := rfl

/-! ### `State.drawBit` -/

@[simp] theorem State.drawBit_pc (s : State) : s.drawBit.2.pc = s.pc := rfl

@[simp] theorem State.drawBit_psw (s : State) : s.drawBit.2.psw = s.psw := rfl

@[simp] theorem State.drawBit_sp (s : State) : s.drawBit.2.sp = s.sp := rfl

@[simp] theorem State.drawBit_regs (s : State) : s.drawBit.2.regs = s.regs := rfl

@[simp] theorem State.drawBit_es (s : State) : s.drawBit.2.es = s.es := rfl

@[simp] theorem State.drawBit_cs (s : State) : s.drawBit.2.cs = s.cs := rfl

@[simp] theorem State.drawBit_pmc (s : State) : s.drawBit.2.pmc = s.pmc := rfl

@[simp] theorem State.drawBit_intInhibit (s : State) : s.drawBit.2.intInhibit = s.intInhibit := rfl

@[simp] theorem State.drawBit_pmcSettle (s : State) : s.drawBit.2.pmcSettle = s.pmcSettle := rfl

@[simp] theorem State.drawBit_pmcWritten (s : State) : s.drawBit.2.pmcWritten = s.pmcWritten := rfl

@[simp] theorem State.drawBit_mode (s : State) : s.drawBit.2.mode = s.mode := rfl

@[simp] theorem State.drawBit_mem (s : State) : s.drawBit.2.mem = s.mem := rfl

@[simp] theorem State.drawBit_product (s : State) : s.drawBit.2.product = s.product := rfl

@[simp] theorem State.drawBit_pending (s : State) : s.drawBit.2.pending = s.pending := rfl

@[simp] theorem State.drawBit_resets (s : State) : s.drawBit.2.resets = s.resets := rfl

@[simp] theorem State.drawBit_devIn (s : State) : s.drawBit.2.devIn = s.devIn := rfl

@[simp] theorem State.drawBit_hostOut (s : State) : s.drawBit.2.hostOut = s.hostOut := rfl

@[simp] theorem State.drawBit_draws (s : State) : s.drawBit.2.draws = s.draws + 1 := rfl

/-! ### `State.tick` -/

@[simp] theorem State.tick_pc (s : State) : s.tick.pc = s.pc := rfl

@[simp] theorem State.tick_psw (s : State) : s.tick.psw = s.psw := rfl

@[simp] theorem State.tick_sp (s : State) : s.tick.sp = s.sp := rfl

@[simp] theorem State.tick_regs (s : State) : s.tick.regs = s.regs := rfl

@[simp] theorem State.tick_es (s : State) : s.tick.es = s.es := rfl

@[simp] theorem State.tick_cs (s : State) : s.tick.cs = s.cs := rfl

@[simp] theorem State.tick_pmc (s : State) : s.tick.pmc = s.pmc := rfl

@[simp] theorem State.tick_intInhibit (s : State) : s.tick.intInhibit = s.intInhibit := rfl

@[simp] theorem State.tick_pmcSettle (s : State) : s.tick.pmcSettle = s.pmcSettle := rfl

@[simp] theorem State.tick_pmcWritten (s : State) : s.tick.pmcWritten = s.pmcWritten := rfl

@[simp] theorem State.tick_mode (s : State) : s.tick.mode = s.mode := rfl

@[simp] theorem State.tick_mem (s : State) : s.tick.mem = s.mem := rfl

@[simp] theorem State.tick_product (s : State) : s.tick.product = s.product := rfl

@[simp] theorem State.tick_pending (s : State) : s.tick.pending = s.pending.map (Request.tick s) := rfl

@[simp] theorem State.tick_resets (s : State) : s.tick.resets = tickResets s.resets := rfl

@[simp] theorem State.tick_devIn (s : State) : s.tick.devIn = s.devIn := rfl

@[simp] theorem State.tick_hostOut (s : State) : s.tick.hostOut = s.hostOut := rfl

@[simp] theorem State.tick_draws (s : State) : s.tick.draws = s.draws := rfl

@[simp] theorem State.drawBit_fst (s : State) : s.drawBit.1 = Config.freeBit s.draws := rfl

/-! ### `finish` -/

@[simp] theorem finish_pc (s0 s : State) (a : Addr) (b : Bool) : (finish s0 s a b).pc = a := rfl

@[simp] theorem finish_psw (s0 s : State) (a : Addr) (b : Bool) : (finish s0 s a b).psw = s.psw := rfl

@[simp] theorem finish_sp (s0 s : State) (a : Addr) (b : Bool) : (finish s0 s a b).sp = s.sp := rfl

@[simp] theorem finish_regs (s0 s : State) (a : Addr) (b : Bool) : (finish s0 s a b).regs = s.regs := rfl

@[simp] theorem finish_es (s0 s : State) (a : Addr) (b : Bool) : (finish s0 s a b).es = s.es := rfl

@[simp] theorem finish_cs (s0 s : State) (a : Addr) (b : Bool) : (finish s0 s a b).cs = s.cs := rfl

@[simp] theorem finish_pmc (s0 s : State) (a : Addr) (b : Bool) : (finish s0 s a b).pmc = s.pmc := rfl

@[simp] theorem finish_intInhibit (s0 s : State) (a : Addr) (b : Bool) : (finish s0 s a b).intInhibit = b := rfl

@[simp] theorem finish_pmcSettle (s0 s : State) (a : Addr) (b : Bool) : (finish s0 s a b).pmcSettle = wrotePmc s0 s := rfl

@[simp] theorem finish_pmcWritten (s0 s : State) (a : Addr) (b : Bool) : (finish s0 s a b).pmcWritten = s.pmcWritten := rfl

@[simp] theorem finish_mode (s0 s : State) (a : Addr) (b : Bool) : (finish s0 s a b).mode = s.mode := rfl

@[simp] theorem finish_mem (s0 s : State) (a : Addr) (b : Bool) : (finish s0 s a b).mem = s.mem := rfl

@[simp] theorem finish_product (s0 s : State) (a : Addr) (b : Bool) : (finish s0 s a b).product = s.product := rfl

@[simp] theorem finish_pending (s0 s : State) (a : Addr) (b : Bool) : (finish s0 s a b).pending = s.pending := rfl

@[simp] theorem finish_resets (s0 s : State) (a : Addr) (b : Bool) : (finish s0 s a b).resets = s.resets := rfl

@[simp] theorem finish_devIn (s0 s : State) (a : Addr) (b : Bool) : (finish s0 s a b).devIn = s.devIn := rfl

@[simp] theorem finish_hostOut (s0 s : State) (a : Addr) (b : Bool) : (finish s0 s a b).hostOut = s.hostOut := rfl

@[simp] theorem finish_draws (s0 s : State) (a : Addr) (b : Bool) : (finish s0 s a b).draws = s.draws := rfl

/-! ### The bank and `wrotePmc` see only what they depend on -/

@[simp] theorem wrotePmc_self (s : State) : wrotePmc s s = false := by simp [wrotePmc]

/-- Where the latch `PmcWritten` has not moved, `PmcSettle` is cleared. -/
theorem finish_of_kept {s0 s : State} {a : Addr} {b : Bool} (h : s.pmcWritten = s0.pmcWritten) :
    finish s0 s a b = { s with pc := a, intInhibit := b, pmcSettle := false } := by
  simp [finish, wrotePmc, h]

theorem finish_eq {s0 s : State} {a : Addr} {b : Bool} :
    finish s0 s a b = { s with pc := a, intInhibit := b, pmcSettle := !s0.pmcWritten && s.pmcWritten } := rfl

theorem State.bank_eq (s : State) : s.bank = pswRBS s.psw := rfl

end Sys2Proof.Machine
end

