-- ==== Sys2Proof/Laws/Memory.lean ====
section
/-! SUPPORT. The memory list: reading after a write, and the canonical form, which every memory operation keeps. -/

namespace Sys2Proof.Machine

-- One proof at a time: many at once would each take a thread and its stack.
set_option Elab.async false

/-! ### Read after write -/

/-- A read of the written address gives the written byte. -/
@[simp] theorem memRead_memWrite_same (a : Nat) (v : Byte) (m : Memory) : memRead a (memWrite a v m) = some v := by
  induction m with
  | nil => simp [memWrite, memRead]
  | cons c m ih =>
    obtain ⟨b, w⟩ := c
    simp only [memWrite]
    split
    · simp [memRead]
    · split
      · simp [memRead]
      · rename_i h1 h2
        simp [memRead, h2, ih]

/-- A read of another address gives what it gave before. -/
theorem memRead_memWrite_other {a b : Nat} (v : Byte) (m : Memory) (h : b ≠ a) :
    memRead b (memWrite a v m) = memRead b m := by
  induction m with
  | nil => simp [memWrite, memRead, h]
  | cons c m ih =>
    obtain ⟨d, w⟩ := c
    simp only [memWrite]
    split
    · simp [memRead, h]
    · split
      · rename_i h1 h2
        subst h2
        simp [memRead, h]
      · simp [memRead, ih]

theorem memRead_memWrite (a b : Nat) (v : Byte) (m : Memory) :
    memRead b (memWrite a v m) = if b = a then some v else memRead b m := by
  split
  · next h => subst h; simp
  · next h => exact memRead_memWrite_other v m h

/-! ### The canonical form -/

theorem memSorted_mono {lo lo' : Nat} {m : Memory} (h : memSorted lo' m = true) (hl : lo ≤ lo') :
    memSorted lo m = true := by
  cases m with
  | nil => rfl
  | cons c m =>
    simp only [memSorted, Bool.and_eq_true, decide_eq_true_eq] at h ⊢
    exact ⟨⟨by omega, h.1.2⟩, h.2⟩

theorem memSorted_write {lo a : Nat} (v : Byte) {m : Memory} (h : memSorted lo m = true) (hl : lo ≤ a)
    (ha : a < 0xFFEE0) : memSorted lo (memWrite a v m) = true := by
  induction m generalizing lo with
  | nil => simp [memWrite, memSorted]; omega
  | cons c m ih =>
    obtain ⟨b, w⟩ := c
    simp only [memSorted, Bool.and_eq_true, decide_eq_true_eq] at h
    simp only [memWrite]
    split
    · simp only [memSorted, Bool.and_eq_true, decide_eq_true_eq]
      exact ⟨⟨hl, ha⟩, ⟨by omega, h.1.2⟩, h.2⟩
    · split
      · next h2 =>
        subst h2
        simp only [memSorted, Bool.and_eq_true, decide_eq_true_eq]
        exact ⟨⟨hl, ha⟩, h.2⟩
      · simp only [memSorted, Bool.and_eq_true, decide_eq_true_eq]
        exact ⟨h.1, ih h.2 (by omega)⟩

/-- A write below the register area keeps the canonical form. -/
theorem memWf_write {a : Nat} (v : Byte) {m : Memory} (h : memWf m = true) (ha : a < 0xFFEE0) :
    memWf (memWrite a v m) = true := memSorted_write v h (Nat.zero_le a) ha

theorem memSorted_filter (p : Host.Cell → Bool) {lo : Nat} {m : Memory} (h : memSorted lo m = true) :
    memSorted lo (m.filter p) = true := by
  induction m generalizing lo with
  | nil => rfl
  | cons c m ih =>
    simp only [memSorted, Bool.and_eq_true, decide_eq_true_eq] at h
    simp only [List.filter]
    split
    · simp only [memSorted, Bool.and_eq_true, decide_eq_true_eq]
      exact ⟨h.1, ih h.2⟩
    · exact memSorted_mono (ih h.2) (by omega)

/-- The loss of RAM at reset keeps the canonical form. -/
theorem memWf_dropRam (p : Product) {m : Memory} (h : memWf m = true) : memWf (dropRam p m) = true :=
  memSorted_filter _ h

/-- The memory of the reset state has the canonical form. -/
theorem memWf_reset : memWf State.reset.mem = true := rfl

/-- Every cell after a write is the written one or one that was there. -/
theorem mem_memWrite {a : Nat} {v : Byte} {m : Memory} {c : Host.Cell} (h : c ∈ memWrite a v m) :
    c = (a, v) ∨ c ∈ m := by
  induction m with
  | nil => simpa [memWrite] using h
  | cons d m ih =>
    obtain ⟨b, w⟩ := d
    simp only [memWrite] at h
    split at h
    · simpa using h
    · split at h
      · simp only [List.mem_cons] at h ⊢
        rcases h with h | h
        · exact .inl h
        · exact .inr (.inr h)
      · simp only [List.mem_cons] at h ⊢
        rcases h with h | h
        · exact .inr (.inl h)
        · rcases ih h with h | h
          · exact .inl h
          · exact .inr (.inr h)

/-- An address below all listed ones has no byte. -/
theorem memRead_lt {lo a : Nat} {m : Memory} (h : memSorted lo m = true) (ha : a < lo) : memRead a m = none := by
  induction m generalizing lo with
  | nil => rfl
  | cons c m ih =>
    obtain ⟨b, w⟩ := c
    simp only [memSorted, Bool.and_eq_true, decide_eq_true_eq] at h
    have hb : a ≠ b := by omega
    simp [memRead, hb, ih h.2 (by omega)]

end Sys2Proof.Machine
end

