-- ==== Sys2Proof/Laws/Registers.lean ====
section
/-! SUPPORT. The general registers: reading after a write, within a bank. -/

namespace Sys2Proof.Machine

-- One proof at a time: many at once would each take a thread and its stack.
set_option Elab.async false

theorem regIndex_lt (b : BitVec 2) (r : Reg8) : regIndex b r < 32 := by
  unfold regIndex
  cases r <;> simp only [regNum] <;> omega

theorem regNum_inj {r r' : Reg8} (h : regNum r = regNum r') : r = r' := by
  cases r <;> cases r' <;> simp_all [regNum]

theorem regIndex_inj {b : BitVec 2} {r r' : Reg8} (h : regIndex b r = regIndex b r') : r = r' := by
  apply regNum_inj
  unfold regIndex at h
  omega

@[simp] theorem regByte_setRegByte_same (s : State) {k : Nat} (v : Byte) (h : k < 32) :
    (s.setRegByte k v).regByte k = v := by
  simp [State.regByte, h]

theorem regByte_setRegByte_other (s : State) {k j : Nat} (v : Byte) (h : j ≠ k) :
    (s.setRegByte k v).regByte j = s.regByte j := by
  simp [State.regByte, h.symm]

@[simp] theorem r8_setR8_same (s : State) (b : BitVec 2) (r : Reg8) (v : Byte) : (s.setR8 b r v).r8 b r = v := by
  simp [State.r8, State.setR8, regIndex_lt]

theorem r8_setR8_other (s : State) (b : BitVec 2) {r r' : Reg8} (v : Byte) (h : r' ≠ r) :
    (s.setR8 b r v).r8 b r' = s.r8 b r' :=
  regByte_setRegByte_other s v fun hk => h (regIndex_inj hk)

theorem word_lo_hi (w : Word) : word (lo8 w) (hi8 w) = w := by
  simp only [word, lo8, hi8]
  ext i hi
  simp only [BitVec.getElem_append, BitVec.getElem_extractLsb']
  split
  · simp [BitVec.getElem_eq_testBit_toNat, BitVec.getLsbD]
  · rename_i h
    have : 8 + (i - 8) = i := by omega
    simp [BitVec.getElem_eq_testBit_toNat, BitVec.getLsbD, this]

@[simp] theorem lo8_word (l h : Byte) : lo8 (word l h) = l := by
  ext i hi
  have := BitVec.getLsbD_append (x := h) (y := l) (i := i)
  simp_all [word, lo8]

@[simp] theorem hi8_word (l h : Byte) : hi8 (word l h) = h := by
  ext i hi
  have := BitVec.getLsbD_append (x := h) (y := l) (i := 8 + i)
  simp_all [word, hi8]

/-- The pair takes the word that is written to it. -/
@[simp] theorem r16_setR16_same (s : State) (b : BitVec 2) (rp : Reg16) (v : Word) :
    (s.setR16 b rp v).r16 b rp = v := by
  have hne : pairLo rp ≠ pairHi rp := by cases rp <;> decide
  rw [State.r16, State.setR16, r8_setR8_same, r8_setR8_other _ _ _ hne, r8_setR8_same, word_lo_hi]

/-- The registers outside the pair stay. -/
theorem r8_setR16_other (s : State) (b : BitVec 2) {rp : Reg16} {r : Reg8} (v : Word) (hl : r ≠ pairLo rp)
    (hh : r ≠ pairHi rp) : (s.setR16 b rp v).r8 b r = s.r8 b r := by
  rw [State.setR16, r8_setR8_other _ _ _ hh, r8_setR8_other _ _ _ hl]

/-- A register of the running bank is the RAM byte at its address (`10_state.md` R37). -/
theorem peek_regAddr (s : State) {b : BitVec 2} (r : Reg8) : s.peek (0xFFEE0 + regIndex b r) = some (s.r8 b r) := by
  have h := regIndex_lt b r
  have hr : region s.product (0xFFEE0 + regIndex b r) = .regs := by
    unfold region
    rw [if_neg (by omega), if_neg (by omega), if_pos (by omega)]
  simp [State.peek, hr, State.r8]

end Sys2Proof.Machine
end

