-- ==== Sys2Proof/Laws/Results.lean ====
section
/-! SUPPORT. Results: what an outcome says of a result, and when a sequence of operations answers or stops. -/

namespace Sys2Proof.Machine

-- One proof at a time: many at once would each take a thread and its stack.
set_option Elab.async false

@[simp] theorem outcome_eq_next {r : Res State} {t : State} : outcome r = .next t ↔ r = .ok t := by
  cases r <;> simp [outcome]

@[simp] theorem outcome_eq_fault {r : Res State} {f : Fault} : outcome r = .fault f ↔ r = .error f := by
  cases r <;> simp [outcome]

@[simp] theorem outcome_ne_refused {r : Res State} {f : Refusal} : outcome r ≠ .refused f := by
  cases r <;> simp [outcome]

/-- A sequence answers a value if both parts do. -/
theorem bind_ok {α β : Type} {r : Res α} {f : α → Res β} {b : β} :
    (r >>= f) = .ok b ↔ ∃ a, r = .ok a ∧ f a = .ok b := by
  cases r <;> simp [bind, Except.bind]

/-- A sequence stops with a fault if its first part does, or its second. -/
theorem bind_error {α β : Type} {r : Res α} {f : α → Res β} {e : Fault} :
    (r >>= f) = .error e ↔ r = .error e ∨ ∃ a, r = .ok a ∧ f a = .error e := by
  cases r <;> simp [bind, Except.bind]

theorem unlessStale_iff {b : Bool} {s t : State} : unlessStale b s = .ok t ↔ b = false ∧ s = t := by
  cases b <;> simp [unlessStale]

theorem unlessStale_error {b : Bool} {s : State} {f : Fault} :
    unlessStale b s = .error f ↔ b = true ∧ f = .staleFetch := by
  cases b <;> simp [unlessStale, eq_comm]

end Sys2Proof.Machine
end

