-- ==== Sys2Proof/Laws/Access.lean ====
section
/-! SUPPORT. What each access operation can do: the byte and word accesses are the relations of `Safety.lean`, and a store
adds the fetch window. -/

namespace Sys2Proof.Machine

-- One proof at a time: many at once would each take a thread and its stack.
set_option Elab.async false

/-! ### Regions -/

theorem region_cpu {p : Product} {a : Nat} :
    region p a = .cpu ↔ (a = 0xFFFF8 ∨ a = 0xFFFF9 ∨ a = 0xFFFFA ∨ a = 0xFFFFC ∨ a = 0xFFFFD ∨ a = 0xFFFFE) := by
  unfold region
  split_ifs <;> simp only [true_iff, false_iff, reduceCtorEq] <;> omega

theorem region_regs {p : Product} {a : Nat} : region p a = .regs ↔ (0xFFEE0 ≤ a ∧ a ≤ 0xFFEFF) := by
  unfold region
  split_ifs <;> simp only [true_iff, false_iff, reduceCtorEq] <;> omega

theorem region_ram {p : Product} {a : Nat} : region p a = .ram ↔ (p.ramBase ≤ a ∧ a ≤ 0xFFEDF) := by
  unfold region
  split_ifs <;> simp only [true_iff, false_iff, reduceCtorEq] <;> omega

theorem region_of_inStack {p : Product} {a : Nat} (h : inStack p a = true) : region p a = .ram := by
  simpa [inStack, region_ram] using h

theorem region_flash_le {p : Product} {a : Nat} (h : region p a = .flash) : a ≤ p.flashTop := by
  unfold region at h
  split_ifs at h <;> omega

theorem region_ext_bounds {p : Product} {a : Nat} (h : region p a = .ext) :
    p.flashTop < a ∧ a ≤ 0xEDFFF := by
  unfold region at h
  split_ifs at h
  omega

/-! ### Byte accesses -/

theorem cpuWrite_spec {a : Nat} {v : Byte} {s t : State} (hr : region s.product a = .cpu)
    (h : cpuWrite a v s = .ok t) : ByteWritten s a v t := by
  unfold cpuWrite at h
  split_ifs at h with h1 h2 h3 h4 h5
  · cases h; exact .spl h1
  · cases h; exact .sph h2
  · cases h; exact .psw h3
  · cases h; exact .cs h4
  · cases h; exact .es h5
  · unfold pmcWrite at h
    split at h
    · cases h
    · next hw =>
      cases h
      have := region_cpu.mp hr
      exact .pmc (by omega) (by simpa using hw)

/-- `MemRead(a, 1)` is the relation `ByteRead`. -/
theorem read8_iff {a : Nat} {v : Byte} {s t : State} : read8 a s = .ok (v, t) ↔ ByteRead s a v t := by
  constructor
  · intro h
    unfold read8 at h
    split at h
    · next hr =>
      obtain ⟨rfl, rfl⟩ : cpuRead a s = v ∧ s = t := by simpa using h
      exact .stored (by simp [State.peek, hr]) (by simp [hr])
    · cases h
    · next hr =>
      unfold devRead at h
      rcases hd : s.devIn with _ | ⟨_ | _, rest⟩ <;> simp only [hd] at h
      · cases h
      · cases h; exact .device _ _ hr hd rfl
      · cases h
    · next hr =>
      obtain ⟨rfl, rfl⟩ : s.regByte (a - 0xFFEE0) = v ∧ s = t := by simpa using h
      exact .stored (by simp [State.peek, hr]) (by simp [hr])
    · next hr =>
      unfold storedByte at h
      rcases hm : memRead a s.mem with _ | w <;> simp only [hm] at h <;> cases h
      exact .stored (by simp [State.peek, hr, hm]) (by simp [hr])
    · next hr =>
      unfold storedByte at h
      rcases hm : memRead a s.mem with _ | w <;> simp only [hm] at h <;> cases h
      exact .stored (by simp [State.peek, hr, hm]) (by simp [hr])
    · next hr =>
      unfold storedByte at h
      rcases hm : memRead a s.mem with _ | w <;> simp only [hm] at h <;> cases h
      exact .stored (by simp [State.peek, hr, hm]) (by simp [hr])
    · next hr =>
      split at h
      · cases h
      · next hs =>
        split at h
        · next hf =>
          unfold storedByte at h
          rcases hm : memRead (mirrorSource s a) s.mem with _ | w <;> simp only [hm] at h <;> cases h
          exact .stored (by simp [State.peek, hr, hm, hf]) (fun _ => by simpa using hs)
        · cases h
    · cases h
  · intro h
    cases h with
    | stored here settled =>
      unfold State.peek at here
      unfold read8
      split at here <;> rename_i hr <;> simp only [hr] at settled ⊢
      · rw [Option.some.inj here]
      · rw [Option.some.inj here]
      · simp [storedByte, here]
      · simp [storedByte, here]
      · simp [storedByte, here]
      · rw [if_neg (by simp [settled])]
        split at here
        · simp [*, storedByte]
        · cases here
      · cases here
      · cases here
      · cases here
    | device w rest dev ans low =>
      simp [read8, dev, devRead, ans, low]

/-- `MemWrite(a, 1, v)` is the relation `ByteWritten`. -/
theorem write8_iff {a : Nat} {v : Byte} {s t : State} : write8 a v s = .ok t ↔ ByteWritten s a v t := by
  constructor
  · intro h
    unfold write8 at h
    split at h
    · next hr => exact cpuWrite_spec hr h
    · cases h
    · next hr =>
      unfold devWrite at h
      rcases hd : s.devIn with _ | ⟨_ | _, rest⟩ <;> simp only [hd] at h
      · cases h
      · cases h; exact .device _ _ hr hd
      · cases h
    · next hr => cases h; exact .reg hr
    · next hr => cases h; exact .ram hr
    · next hr =>
      split at h
      · next he => cases h; exact .ext hr he
      · cases h
    · cases h
    · cases h
    · cases h
  · intro h
    cases h with
    | ram here => simp [write8, here]
    | ext here writable => simp [write8, here, writable]
    | reg here => simp [write8, here]
    | spl here =>
      have hr := region_cpu (p := s.product).mpr (.inl here)
      subst here
      simp [write8, hr, cpuWrite, State.setSp]
    | sph here =>
      have hr := region_cpu (p := s.product).mpr (.inr (.inl here))
      subst here
      simp [write8, hr, cpuWrite, State.setSp]
    | psw here =>
      have hr := region_cpu (p := s.product).mpr (.inr (.inr (.inl here)))
      subst here
      simp [write8, hr, cpuWrite, State.setPsw]
    | cs here =>
      have hr := region_cpu (p := s.product).mpr (.inr (.inr (.inr (.inl here))))
      subst here
      simp [write8, hr, cpuWrite, State.setCs]
    | es here =>
      have hr := region_cpu (p := s.product).mpr (.inr (.inr (.inr (.inr (.inl here)))))
      subst here
      simp [write8, hr, cpuWrite, State.setEs]
    | pmc here first =>
      have hr := region_cpu (p := s.product).mpr (.inr (.inr (.inr (.inr (.inr here)))))
      subst here
      simp [write8, hr, cpuWrite, pmcWrite, first]
    | device w rest dev ans => simp [write8, dev, devWrite, ans]

/-- A byte read changes nothing but what the host and the CPU exchange. -/
theorem ByteRead.frame {s t : State} {a : Nat} {v : Byte} (h : ByteRead s a v t) :
    t = { s with devIn := t.devIn, hostOut := t.hostOut } := by
  cases h <;> rfl

/-! ### Word accesses -/

theorem read16_iff {a : Nat} {v : Word} {s t : State} : read16 a s = .ok (v, t) ↔ WordRead s a v t := by
  constructor
  · intro h
    unfold read16 at h
    split at h
    · next hd =>
      unfold devRead at h
      rcases hi : s.devIn with _ | ⟨_ | _, rest⟩ <;> simp only [hi] at h <;> cases h
      exact .device _ _ hd hi
    · next hd =>
      rcases h1 : read8 a s with _ | ⟨l, s1⟩ <;> simp only [h1, bind, Except.bind] at h
      · cases h
      · rcases h2 : read8 (a + 1) s1 with _ | ⟨b, s2⟩ <;> simp only [h2] at h <;> cases h
        exact .bytes _ _ _ _ (by simpa using hd) (read8_iff.mp h1) (read8_iff.mp h2)
  · intro h
    cases h with
    | bytes l b s1 _ notDev low high =>
      simp [read16, notDev, read8_iff.mpr low, read8_iff.mpr high, bind, Except.bind]
    | device _ rest dev ans => simp [read16, dev, devRead, ans]

/-- A word read changes nothing but what the host and the CPU exchange. -/
theorem WordRead.frame {s t : State} {a : Nat} {v : Word} (h : WordRead s a v t) :
    t = { s with devIn := t.devIn, hostOut := t.hostOut } := by
  cases h with
  | bytes l b s1 _ notDev low high =>
    have h1 := low.frame
    have h2 := high.frame
    rw [h1] at h2
    exact h2
  | device => rfl

theorem write16_iff {a : Nat} {v : Word} {s t : State} : write16 a v s = .ok t ↔ WordWritten s a v t := by
  constructor
  · intro h
    unfold write16 at h
    split at h
    · next hd =>
      unfold devWrite at h
      rcases hi : s.devIn with _ | ⟨_ | _, rest⟩ <;> simp only [hi] at h <;> cases h
      exact .device _ _ hd hi
    · next hd =>
      rcases h1 : write8 a (lo8 v) s with _ | s1 <;> simp only [h1, bind, Except.bind] at h
      · cases h
      · exact .bytes _ _ (by simpa using hd) (write8_iff.mp h1) (write8_iff.mp h)
  · intro h
    cases h with
    | bytes s1 _ notDev low high =>
      simp [write16, notDev, write8_iff.mpr low, write8_iff.mpr high, bind, Except.bind]
    | device w rest dev ans => simp [write16, dev, devWrite, ans]

/-! ### Accesses that stop -/

theorem devRead_error {a n : Nat} {s : State} {f : Fault} :
    devRead a n s = .error f ↔ (∀ w rest, s.devIn ≠ .value w :: rest) ∧ f = .deviceRefused := by
  unfold devRead
  rcases s.devIn with _ | ⟨_ | _, rest⟩ <;> simp <;> exact eq_comm

theorem devWrite_error {a n : Nat} {v : Word} {s : State} {f : Fault} :
    devWrite a n v s = .error f ↔ (∀ w rest, s.devIn ≠ .value w :: rest) ∧ f = .deviceRefused := by
  unfold devWrite
  rcases s.devIn with _ | ⟨_ | _, rest⟩ <;> simp <;> exact eq_comm

theorem storedByte_error {a : Nat} {s : State} {f : Fault} :
    storedByte a s = .error f ↔ memRead a s.mem = none ∧ f = .undefinedRead := by
  unfold storedByte
  cases memRead a s.mem <;> simp [eq_comm]

/-- `MemRead(a, 1)` stops as the relation `ByteReadFails` says. -/
theorem read8_error {a : Nat} {s : State} {f : Fault} : read8 a s = .error f ↔ ByteReadFails s a f := by
  constructor
  · intro h
    unfold read8 at h
    split at h
    · cases h
    · next hr => cases h; exact .reserved hr
    · next hr =>
      rcases hd : devRead a 1 s with g | ⟨v, t⟩ <;> simp only [hd] at h <;> cases h
      obtain ⟨ans, rfl⟩ := devRead_error.mp hd
      exact .device hr ans
    · cases h
    · next hr =>
      rcases hm : storedByte a s with g | v <;> simp only [hm] at h <;> cases h
      obtain ⟨none, rfl⟩ := storedByte_error.mp hm
      exact .unwritten (by simp [isStorage, hr]) none
    · next hr =>
      rcases hm : storedByte a s with g | v <;> simp only [hm] at h <;> cases h
      obtain ⟨none, rfl⟩ := storedByte_error.mp hm
      exact .unwritten (by simp [isStorage, hr]) none
    · next hr =>
      rcases hm : storedByte a s with g | v <;> simp only [hm] at h <;> cases h
      obtain ⟨none, rfl⟩ := storedByte_error.mp hm
      exact .unwritten (by simp [isStorage, hr]) none
    · next hr =>
      split at h
      · next hs => cases h; exact .tooEarly hr hs
      · next hs =>
        split at h
        · next hf =>
          rcases hm : storedByte (mirrorSource s a) s with g | v <;> simp only [hm] at h <;> cases h
          obtain ⟨none, rfl⟩ := storedByte_error.mp hm
          exact .unplaced hr (by simpa using hs) hf none
        · next hf => cases h; exact .beyondFlash hr (by simpa using hs) (by omega)
    · next hr => cases h; exact .unmapped hr
  · intro h
    cases h with
    | reserved here => simp [read8, here]
    | device dev ans => simp [read8, dev, devRead_error.mpr ⟨ans, rfl⟩]
    | unwritten here none =>
      have hm := storedByte_error.mpr ⟨none, rfl⟩
      simp only [isStorage, Bool.or_eq_true, decide_eq_true_eq] at here
      rcases here with (hr | hr) | hr <;> simp [read8, hr, hm]
    | tooEarly here settle => simp [read8, here, settle]
    | unplaced here settled within none =>
      simp [read8, here, settled, within, storedByte_error.mpr ⟨none, rfl⟩]
    | beyondFlash here settled beyond => simp [read8, here, settled, Nat.not_le.mpr beyond]
    | unmapped here => simp [read8, here]

/-- `MemWrite(a, 1, v)` stops as the relation `ByteWriteFails` says, whatever the byte. -/
theorem write8_error {a : Nat} {v : Byte} {s : State} {f : Fault} :
    write8 a v s = .error f ↔ ByteWriteFails s a f := by
  constructor
  · intro h
    unfold write8 at h
    split at h
    · next hr =>
      unfold cpuWrite at h
      split_ifs at h with h1 h2 h3 h4 h5
      unfold pmcWrite at h
      split at h
      · next hw =>
        cases h
        have := region_cpu.mp hr
        exact .second (by omega) hw
      · cases h
    · next hr => cases h; exact .reserved hr
    · next hr =>
      obtain ⟨ans, rfl⟩ := devWrite_error.mp h
      exact .device hr ans
    · cases h
    · cases h
    · next hr =>
      split at h
      · cases h
      · next he => cases h; exact .external hr (by simpa using he)
    · next hr => cases h; exact .readOnly (.inr hr)
    · next hr => cases h; exact .readOnly (.inl hr)
    · next hr => cases h; exact .unmapped hr
  · intro h
    cases h with
    | reserved here => simp [write8, here]
    | readOnly here => rcases here with hr | hr <;> simp [write8, hr]
    | unmapped here => simp [write8, here]
    | device dev ans => simp [write8, dev, devWrite_error.mpr ⟨ans, rfl⟩]
    | external here closed => simp [write8, here, closed]
    | second here written =>
      have hr := region_cpu (p := s.product).mpr (.inr (.inr (.inr (.inr (.inr here)))))
      subst here
      simp [write8, hr, cpuWrite, pmcWrite, written]

theorem read16_error {a : Nat} {s : State} {f : Fault} : read16 a s = .error f ↔ WordReadFails s a f := by
  constructor
  · intro h
    unfold read16 at h
    split at h
    · next hd =>
      obtain ⟨ans, rfl⟩ := devRead_error.mp h
      exact .device hd ans
    · next hd =>
      rcases bind_error.mp h with h1 | ⟨⟨l, s1⟩, h1, h⟩
      · exact .low (by simpa using hd) (read8_error.mp h1)
      · rcases bind_error.mp h with h2 | ⟨⟨b, s2⟩, -, h⟩
        · exact .high (by simpa using hd) (read8_iff.mp h1) (read8_error.mp h2)
        · cases h
  · intro h
    cases h with
    | device dev ans => simp [read16, dev, devRead_error.mpr ⟨ans, rfl⟩]
    | low notDev fails => simp [read16, notDev, read8_error.mpr fails, bind, Except.bind]
    | high notDev low fails =>
      simp [read16, notDev, read8_iff.mpr low, read8_error.mpr fails, bind, Except.bind]

theorem write16_error {a : Nat} {v : Word} {s : State} {f : Fault} :
    write16 a v s = .error f ↔ WordWriteFails s a v f := by
  constructor
  · intro h
    unfold write16 at h
    split at h
    · next hd =>
      obtain ⟨ans, rfl⟩ := devWrite_error.mp h
      exact .device hd ans
    · next hd =>
      rcases bind_error.mp h with h1 | ⟨s1, h1, h2⟩
      · exact .low (by simpa using hd) (write8_error.mp h1)
      · exact .high (by simpa using hd) (write8_iff.mp h1) (write8_error.mp h2)
  · intro h
    cases h with
    | device dev ans => simp [write16, dev, devWrite_error.mpr ⟨ans, rfl⟩]
    | low notDev fails => simp [write16, notDev, write8_error.mpr fails, bind, Except.bind]
    | high notDev low fails =>
      simp [write16, notDev, write8_iff.mpr low, write8_error.mpr fails, bind, Except.bind]

/-! ### Stores -/

/-- Whether an address lies in the fetch window depends on the product alone. -/
theorem stale_congr {s t : State} (h : t.product = s.product) (next : Addr) (a : Nat) :
    stale t next a = stale s next a := by simp [stale, h]

theorem store8_iff {next : Addr} {a : Nat} {v : Byte} {s t : State} :
    store8 next a v s = .ok t ↔ stale s next a = false ∧ ByteWritten s a v t := by
  simp only [store8, bind_ok, unlessStale_iff, write8_iff]
  constructor
  · rintro ⟨u, hw, hs, rfl⟩
    exact ⟨hs, hw⟩
  · rintro ⟨hs, hw⟩
    exact ⟨t, hw, hs, rfl⟩

/-- A store stops where its write does; a write that succeeds stops it in the fetch window. -/
theorem store8_error {next : Addr} {a : Nat} {v : Byte} {s : State} {f : Fault} :
    store8 next a v s = .error f ↔
      ByteWriteFails s a f ∨ ((∃ t, ByteWritten s a v t) ∧ stale s next a = true ∧ f = .staleFetch) := by
  simp only [store8, bind_error, unlessStale_error, write8_error, write8_iff]
  constructor
  · rintro (h | ⟨t, hw, hs⟩)
    · exact .inl h
    · exact .inr ⟨⟨t, hw⟩, hs⟩
  · rintro (h | ⟨⟨t, hw⟩, hs⟩)
    · exact .inl h
    · exact .inr ⟨t, hw, hs⟩

theorem store16_iff {next : Addr} {a : Nat} {v : Word} {s t : State} :
    store16 next a v s = .ok t ↔
      (stale s next a = false ∧ stale s next (a + 1) = false) ∧ WordWritten s a v t := by
  simp only [store16, bind_ok, unlessStale_iff, write16_iff, Bool.or_eq_false_iff]
  constructor
  · rintro ⟨u, hw, hs, rfl⟩
    exact ⟨hs, hw⟩
  · rintro ⟨hs, hw⟩
    exact ⟨t, hw, hs, rfl⟩

theorem store16_error {next : Addr} {a : Nat} {v : Word} {s : State} {f : Fault} :
    store16 next a v s = .error f ↔
      WordWriteFails s a v f ∨
        ((∃ t, WordWritten s a v t) ∧ (stale s next a = true ∨ stale s next (a + 1) = true) ∧ f = .staleFetch) := by
  simp only [store16, bind_error, unlessStale_error, write16_error, write16_iff, Bool.or_eq_true]
  constructor
  · rintro (h | ⟨t, hw, hs⟩)
    · exact .inl h
    · exact .inr ⟨⟨t, hw⟩, hs⟩
  · rintro (h | ⟨⟨t, hw⟩, hs⟩)
    · exact .inl h
    · exact .inr ⟨t, hw, hs⟩

end Sys2Proof.Machine
end

