-- ==== Sys2Proof/Laws/Ops.lean ====
section
/-! SUPPORT. What each shared operation of `Ops.lean` and `Cycle.lean` can do, said once. -/

namespace Sys2Proof.Machine

-- One proof at a time: many at once would each take a thread and its stack.
set_option Elab.async false

/-! ### The end of an instruction -/

theorem retire_iff {i : Instr} {s0 s t : State} {b : Bool} :
    retire i s0 s b = .ok t ↔ flows i s0 ∧ t = finish s0 s (nextPc i s0) b := by
  unfold retire flows
  cases crosses s0.product s0.pc.toNat (nextPc i s0).toNat <;> simp [eq_comm]

theorem retire_error {i : Instr} {s0 s : State} {b : Bool} {f : Fault} :
    retire i s0 s b = .error f ↔ ¬ flows i s0 ∧ f = .fetchProhibited := by
  unfold retire flows
  cases crosses s0.product s0.pc.toNat (nextPc i s0).toNat <;> simp [eq_comm]

theorem branchTo_iff {s0 s t : State} {a : Addr} {b : Bool} :
    branchTo s0 s a b = .ok t ↔ crosses s0.product s0.pc.toNat a.toNat = false ∧ t = finish s0 s a b := by
  unfold branchTo
  cases crosses s0.product s0.pc.toNat a.toNat <;> simp [eq_comm]

theorem branchTo_error {s0 s : State} {a : Addr} {b : Bool} {f : Fault} :
    branchTo s0 s a b = .error f ↔
      crosses s0.product s0.pc.toNat a.toNat = true ∧ f = .crossRegionRelative := by
  unfold branchTo
  cases crosses s0.product s0.pc.toNat a.toNat <;> simp [eq_comm]

/-! ### The stack -/

theorem push2_iff {lo hi : Byte} {s t : State} :
    push2 lo hi s = .ok t ↔ stackOk s [-1, -2] = true ∧
      t = { s with
        mem := memWrite (stackAddr s (-2)) lo (memWrite (stackAddr s (-1)) hi s.mem), sp := s.sp - 2 } := by
  unfold push2
  cases hk : stackOk s [-1, -2]
  · simp
  · exact ⟨fun h => ⟨rfl, (Except.ok.inj h).symm⟩, fun h => congrArg Except.ok h.2.symm⟩

theorem push4_iff {ret : Addr} {top : Byte} {s t : State} :
    push4 ret top s = .ok t ↔ stackOk s [-1, -2, -3, -4] = true ∧
      t = { s with
        mem := memWrite (stackAddr s (-4)) (addrL ret) (memWrite (stackAddr s (-3)) (addrH ret)
          (memWrite (stackAddr s (-2)) (addrS ret) (memWrite (stackAddr s (-1)) top s.mem)))
        sp := s.sp - 4 } := by
  unfold push4
  cases hk : stackOk s [-1, -2, -3, -4]
  · simp
  · exact ⟨fun h => ⟨rfl, (Except.ok.inj h).symm⟩, fun h => congrArg Except.ok h.2.symm⟩

theorem pushing_iff {next : Addr} {ks : List (BitVec 16)} {push : State → Res State} {s t : State} :
    pushing next ks push s = .ok t ↔ stackStale s next ks = false ∧ push s = .ok t := by
  unfold pushing
  simp only [bind_ok, unlessStale_iff]
  constructor
  · rintro ⟨u, hp, hs, rfl⟩
    exact ⟨hs, hp⟩
  · rintro ⟨hs, hp⟩
    exact ⟨t, hp, hs, rfl⟩

/-- A push of an instruction stops where the push does; one that succeeds stops it in the fetch window. -/
theorem pushing_error {next : Addr} {ks : List (BitVec 16)} {push : State → Res State} {s : State} {f : Fault} :
    pushing next ks push s = .error f ↔
      push s = .error f ∨ ((∃ t, push s = .ok t) ∧ stackStale s next ks = true ∧ f = .staleFetch) := by
  unfold pushing
  simp only [bind_error, unlessStale_error]
  constructor
  · rintro (h | ⟨t, hp, hs⟩)
    · exact .inl h
    · exact .inr ⟨⟨t, hp⟩, hs⟩
  · rintro (h | ⟨⟨t, hp⟩, hs⟩)
    · exact .inl h
    · exact .inr ⟨t, hp, hs⟩

theorem push2_error {lo hi : Byte} {s : State} {f : Fault} :
    push2 lo hi s = .error f ↔ stackOk s [-1, -2] = false ∧ f = .stackOutsideRam := by
  unfold push2
  cases hk : stackOk s [-1, -2] <;> simp [eq_comm (a := f)]

theorem push4_error {ret : Addr} {top : Byte} {s : State} {f : Fault} :
    push4 ret top s = .error f ↔ stackOk s [-1, -2, -3, -4] = false ∧ f = .stackOutsideRam := by
  unfold push4
  cases hk : stackOk s [-1, -2, -3, -4] <;> simp [eq_comm (a := f)]

/-- The range check of a frame is that of its bytes. -/
theorem stackOk_iff {s : State} {ks : List (BitVec 16)} :
    stackOk s ks = true ↔ ∀ k ∈ ks, inStack s.product (stackAddr s k) = true := by
  simp [stackOk]

theorem popByte_iff {k : BitVec 16} {s : State} {v : Byte} :
    popByte k s = .ok v ↔ memRead (stackAddr s k) s.mem = some v := by
  unfold popByte storedByte
  split <;> simp_all

theorem popAddr_iff {s : State} {a : Addr} :
    popAddr s = .ok a ↔ ∃ l h u, memRead (stackAddr s 0) s.mem = some l ∧ memRead (stackAddr s 1) s.mem = some h ∧
      memRead (stackAddr s 2) s.mem = some u ∧ a = addrOf l h u := by
  simp only [popAddr, bind_ok, popByte_iff, Except.ok.injEq]
  constructor
  · rintro ⟨l, hl, h, hh, u, hu, rfl⟩
    exact ⟨l, h, u, hl, hh, hu, rfl⟩
  · rintro ⟨l, h, u, hl, hh, hu, rfl⟩
    exact ⟨l, hl, h, hh, u, hu, rfl⟩

/-- The bytes of a frame have different addresses. -/
theorem stackAddr_inj {s : State} {j k : BitVec 16} (h : stackAddr s j = stackAddr s k) : j = k := by
  unfold stackAddr at h
  bv_omega

theorem stackAddr_push {s t : State} {k d : BitVec 16} (h : t.sp = s.sp - d) : stackAddr t k = stackAddr s (k - d) := by
  unfold stackAddr
  rw [h]
  congr 2
  bv_omega

/-- A return address that has been cut into three bytes comes back whole. -/
@[simp] theorem addrOf_parts (a : Addr) : addrOf (addrL a) (addrH a) (addrS a) = a := by
  unfold addrOf addrL addrH addrS
  apply BitVec.eq_of_toNat_eq
  simp only [BitVec.toNat_append, BitVec.extractLsb'_toNat, BitVec.toNat_setWidth, Nat.shiftRight_eq_div_pow,
    Nat.shiftLeft_eq]
  have := a.isLt
  rw [← Nat.shiftLeft_eq, ← Nat.shiftLeft_eq, ← Nat.shiftLeft_add_eq_or_of_lt (by omega),
    ← Nat.shiftLeft_add_eq_or_of_lt (by omega)]
  simp only [Nat.shiftLeft_eq]
  omega

/-! ### Exceptions -/

theorem enterException_iff {vector : Nat} {ret : Addr} {s t : State} :
    enterException vector ret s = .ok t ↔ ∃ w s1 s2, WordRead s vector w s1 ∧ push4 ret s1.psw s1 = .ok s2 ∧
      t = { s2 with psw := setIE s2.psw false, pc := abs16 w } := by
  unfold enterException
  constructor
  · intro h
    obtain ⟨⟨w, s1⟩, h1, h⟩ := bind_ok.mp h
    obtain ⟨s2, h2, h⟩ := bind_ok.mp h
    exact ⟨w, s1, s2, read16_iff.mp h1, h2, by simpa [eq_comm] using h⟩
  · rintro ⟨w, s1, s2, h1, h2, rfl⟩
    exact bind_ok.mpr ⟨(w, s1), read16_iff.mpr h1, bind_ok.mpr ⟨s2, h2, rfl⟩⟩

/-- The entry stops where the vector cannot be read, or where the frame is not in the stack area. -/
theorem enterException_error {vector : Nat} {ret : Addr} {s : State} {f : Fault} :
    enterException vector ret s = .error f ↔ WordReadFails s vector f ∨
      ((∃ w t, WordRead s vector w t) ∧ stackOk s [-1, -2, -3, -4] = false ∧ f = .stackOutsideRam) := by
  unfold enterException
  constructor
  · intro h
    rcases bind_error.mp h with h1 | ⟨⟨w, s1⟩, h1, h⟩
    · exact .inl (read16_error.mp h1)
    · have hr := read16_iff.mp h1
      rcases bind_error.mp h with h2 | ⟨s2, -, h⟩
      · obtain ⟨hk, rfl⟩ := push4_error.mp h2
        rw [hr.frame] at hk
        exact .inr ⟨⟨w, s1, hr⟩, hk, rfl⟩
      · cases h
  · rintro (h | ⟨⟨w, t, hr⟩, hk, rfl⟩)
    · exact bind_error.mpr (.inl (read16_error.mpr h))
    · refine bind_error.mpr (.inr ⟨(w, t), read16_iff.mpr hr, bind_error.mpr (.inl (push4_error.mpr ⟨?_, rfl⟩))⟩)
      rw [hr.frame]
      exact hk

theorem returnFromException_iff {s t : State} :
    returnFromException s = .ok t ↔ stackOk s [0, 1, 2, 3] = true ∧ ∃ l h u p,
      memRead (stackAddr s 0) s.mem = some l ∧ memRead (stackAddr s 1) s.mem = some h ∧
      memRead (stackAddr s 2) s.mem = some u ∧ memRead (stackAddr s 3) s.mem = some p ∧
      t = finish s { s with sp := s.sp + 4, psw := p } (addrOf l h u) true := by
  unfold returnFromException
  split
  · next hk =>
    constructor
    · intro h
      obtain ⟨a, h1, h⟩ := bind_ok.mp h
      obtain ⟨p, h2, h⟩ := bind_ok.mp h
      obtain ⟨l, b, u, hl, hb, hu, rfl⟩ := popAddr_iff.mp h1
      exact ⟨hk, l, b, u, p, hl, hb, hu, popByte_iff.mp h2, by simpa [eq_comm] using h⟩
    · rintro ⟨-, l, b, u, p, hl, hb, hu, hp, rfl⟩
      exact bind_ok.mpr ⟨_, popAddr_iff.mpr ⟨l, b, u, hl, hb, hu, rfl⟩, bind_ok.mpr ⟨p, popByte_iff.mpr hp, rfl⟩⟩
  · simp_all

/-! ### Requests -/

/-- What `pickRequest` finds: the first acceptable request, and the others in their order. -/
theorem pickRequest_some {s : State} {l : List Request} {q : Request} {rest : List Request}
    (h : pickRequest s l = some (q, rest)) :
    acceptable s q = true ∧ ∃ before after, l = before ++ q :: after ∧ rest = before ++ after ∧
      ∀ r ∈ before, acceptable s r = false := by
  induction l generalizing rest with
  | nil => simp [pickRequest] at h
  | cons r rs ih =>
    unfold pickRequest at h
    split at h
    · next ha =>
      simp only [Option.some.injEq, Prod.mk.injEq] at h
      obtain ⟨rfl, rfl⟩ := h
      exact ⟨ha, [], rs, rfl, rfl, by simp⟩
    · next ha =>
      rcases hp : pickRequest s rs with _ | ⟨q', rest'⟩ <;> simp only [hp] at h
      · cases h
      · simp only [Option.some.injEq, Prod.mk.injEq] at h
        obtain ⟨rfl, rfl⟩ := h
        obtain ⟨hq, b, a, rfl, rfl, hb⟩ := ih hp
        refine ⟨hq, r :: b, a, rfl, rfl, ?_⟩
        intro x hx
        rcases List.mem_cons.mp hx with rfl | hx
        · simpa using ha
        · exact hb x hx

theorem pickRequest_none {s : State} {l : List Request} :
    pickRequest s l = none ↔ ∀ q ∈ l, acceptable s q = false := by
  induction l with
  | nil => simp [pickRequest]
  | cons r rs ih =>
    unfold pickRequest
    split
    · next ha => simp [ha]
    · next ha =>
      rcases hp : pickRequest s rs with _ | ⟨q, rest⟩
      · simp only [hp, true_iff] at ih
        simp only [true_iff]
        intro q hq
        rcases List.mem_cons.mp hq with rfl | hq
        · simpa using ha
        · exact ih q hq
      · simp only [hp, reduceCtorEq, false_iff] at ih ⊢
        exact fun h => ih fun q hq => h q (List.mem_cons_of_mem _ hq)

theorem acceptRequest_iff {q : Request} {rest : List Request} {s t : State} :
    acceptRequest q rest s = .ok t ↔ ∃ u, enterException (q.vector s.product) s.pc s = .ok u ∧
      t = { u with
        psw := pswAccept s q u.psw, mode := .run, intInhibit := false, pending := rest.map (Request.tick s),
        resets := tickResets s.resets, hostOut := .accept q :: u.hostOut } := by
  unfold acceptRequest
  rw [bind_ok]
  simp [eq_comm]

/-! ### The step -/

theorem stepWith_reset {ex : Instr → State → Host.Outcome State Fault Refusal} {s : State} (h : s.resetNow = true) :
    stepWith ex s = outcome (takeReset s) := by simp [stepWith, h]

theorem stepWith_accept {ex : Instr → State → Host.Outcome State Fault Refusal} {s : State} {q : Request}
    {rest : List Request} (h : s.resetNow = false) (hp : pickRequest s s.pending = some (q, rest)) :
    stepWith ex s = outcome (acceptRequest q rest s) := by simp [stepWith, h, hp]

theorem stepWith_run {ex : Instr → State → Host.Outcome State Fault Refusal} {s : State} (h : s.resetNow = false)
    (hp : pickRequest s s.pending = none) (hm : s.mode = .run) : stepWith ex s = runInstr ex s := by
  simp [stepWith, h, hp, hm]

theorem stepWith_standby {ex : Instr → State → Host.Outcome State Fault Refusal} {s : State}
    (h : s.resetNow = false) (hp : pickRequest s s.pending = none) (hm : s.mode ≠ .run) :
    stepWith ex s = .next (standby s) := by
  unfold stepWith
  rw [h, hp]
  cases hm' : s.mode <;> simp_all

theorem runInstr_ok {ex : Instr → State → Host.Outcome State Fault Refusal} {s : State} {i : Instr} {n : Nat}
    (h : fetchAt s s.pc.toNat = .ok (i, n)) : runInstr ex s = ex i s.tick := by simp [runInstr, h]

/-- Every way a step can answer a next state. -/
theorem stepWith_next {ex : Instr → State → Host.Outcome State Fault Refusal} {s t : State}
    (h : stepWith ex s = .next t) :
    takeReset s = .ok t ∨ (∃ q rest, pickRequest s s.pending = some (q, rest) ∧ acceptRequest q rest s = .ok t) ∨
      (∃ i n, fetchAt s s.pc.toNat = .ok (i, n) ∧ ex i s.tick = .next t) ∨ t = standby s := by
  unfold stepWith at h
  split at h
  · exact .inl (by simpa using h)
  · split at h
    · next q rest hp => exact .inr (.inl ⟨q, rest, hp, by simpa using h⟩)
    · split at h
      · unfold runInstr at h
        split at h
        · next i n hf => exact .inr (.inr (.inl ⟨i, n, hf, h⟩))
        · cases h
      · exact .inr (.inr (.inr (by simpa [eq_comm] using h)))
      · exact .inr (.inr (.inr (by simpa [eq_comm] using h)))

end Sys2Proof.Machine
end

