-- ==== Sys2Proof/Laws/Operands.lean ====
section
/-! SUPPORT. What each operand form and each shared shape of `Operands.lean` can do, said once. -/

namespace Sys2Proof.Machine

-- One proof at a time: many at once would each take a thread and its stack.
set_option Elab.async false

/-! ### Memory operands -/

theorem loadByte_iff {m : MemOp} {s t : State} {v : Byte} :
    loadByte m s = .ok (v, t) ↔ ∃ a, byteAddr s m = .ok a ∧ ByteRead s a v t := by
  simp only [loadByte, bind_ok, read8_iff]

theorem storeByte_iff {next : Addr} {m : MemOp} {v : Byte} {s t : State} :
    storeByte next m v s = .ok t ↔
      ∃ a, byteAddr s m = .ok a ∧ stale s next a = false ∧ ByteWritten s a v t := by
  simp only [storeByte, bind_ok, store8_iff]

theorem loadWord_iff {m : MemOp} {s t : State} {v : Word} :
    loadWord m s = .ok (v, t) ↔ ∃ a, wordAddr s m = .ok a ∧ WordRead s a v t := by
  simp only [loadWord, bind_ok, read16_iff]

theorem storeWord_iff {next : Addr} {m : MemOp} {v : Word} {s t : State} :
    storeWord next m v s = .ok t ↔
      ∃ a, wordAddr s m = .ok a ∧ (stale s next a = false ∧ stale s next (a + 1) = false) ∧ WordWritten s a v t := by
  simp only [storeWord, bind_ok, store16_iff]

theorem modifyByte_iff {α : Type} {next : Addr} {m : MemOp} {f : Byte → Byte × α} {s t : State} {x : α} :
    modifyByte next m f s = .ok (x, t) ↔
      ∃ a v s1, byteAddr s m = .ok a ∧ ByteRead s a v s1 ∧ stale s1 next a = false ∧
        ByteWritten s1 a (f v).1 t ∧ x = (f v).2 := by
  unfold modifyByte
  constructor
  · intro h
    obtain ⟨a, ha, h⟩ := bind_ok.mp h
    obtain ⟨⟨v, s1⟩, h1, h⟩ := bind_ok.mp h
    obtain ⟨s2, h2, h⟩ := bind_ok.mp h
    obtain ⟨rfl, rfl⟩ : (f v).2 = x ∧ s2 = t := by simpa using h
    exact ⟨a, v, s1, ha, read8_iff.mp h1, (store8_iff.mp h2).1, (store8_iff.mp h2).2, rfl⟩
  · rintro ⟨a, v, s1, ha, h1, h2, h3, rfl⟩
    exact bind_ok.mpr ⟨a, ha, bind_ok.mpr ⟨(v, s1), read8_iff.mpr h1,
      bind_ok.mpr ⟨t, store8_iff.mpr ⟨h2, h3⟩, rfl⟩⟩⟩

theorem modifyWord_iff {next : Addr} {m : MemOp} {f : Word → Word} {s t : State} :
    modifyWord next m f s = .ok t ↔
      ∃ a v s1, wordAddr s m = .ok a ∧ WordRead s a v s1 ∧
        (stale s1 next a = false ∧ stale s1 next (a + 1) = false) ∧ WordWritten s1 a (f v) t := by
  unfold modifyWord
  constructor
  · intro h
    obtain ⟨a, ha, h⟩ := bind_ok.mp h
    obtain ⟨⟨v, s1⟩, h1, h⟩ := bind_ok.mp h
    exact ⟨a, v, s1, ha, read16_iff.mp h1, store16_iff.mp h⟩
  · rintro ⟨a, v, s1, ha, h1, h2⟩
    exact bind_ok.mpr ⟨a, ha, bind_ok.mpr ⟨(v, s1), read16_iff.mpr h1, store16_iff.mpr h2⟩⟩

/-! ### Memory operands that stop -/

theorem loadByte_error {m : MemOp} {s : State} {f : Fault} :
    loadByte m s = .error f ↔ byteAddr s m = .error f ∨ ∃ a, byteAddr s m = .ok a ∧ ByteReadFails s a f := by
  simp only [loadByte, bind_error, read8_error]

theorem loadWord_error {m : MemOp} {s : State} {f : Fault} :
    loadWord m s = .error f ↔ wordAddr s m = .error f ∨ ∃ a, wordAddr s m = .ok a ∧ WordReadFails s a f := by
  simp only [loadWord, bind_error, read16_error]

theorem storeByte_error {next : Addr} {m : MemOp} {v : Byte} {s : State} {f : Fault} :
    storeByte next m v s = .error f ↔ byteAddr s m = .error f ∨ ∃ a, byteAddr s m = .ok a ∧
      (ByteWriteFails s a f ∨ ((∃ t, ByteWritten s a v t) ∧ stale s next a = true ∧ f = .staleFetch)) := by
  simp only [storeByte, bind_error, store8_error]

theorem storeWord_error {next : Addr} {m : MemOp} {v : Word} {s : State} {f : Fault} :
    storeWord next m v s = .error f ↔ wordAddr s m = .error f ∨ ∃ a, wordAddr s m = .ok a ∧
      (WordWriteFails s a v f ∨
        ((∃ t, WordWritten s a v t) ∧ (stale s next a = true ∨ stale s next (a + 1) = true) ∧ f = .staleFetch)) := by
  simp only [storeWord, bind_error, store16_error]

theorem modifyByte_error {α : Type} {next : Addr} {m : MemOp} {g : Byte → Byte × α} {s : State} {f : Fault} :
    modifyByte next m g s = .error f ↔ byteAddr s m = .error f ∨ ∃ a, byteAddr s m = .ok a ∧
      (ByteReadFails s a f ∨ ∃ v u, ByteRead s a v u ∧ store8 next a (g v).1 u = .error f) := by
  simp only [modifyByte, bind_error, read8_error, read8_iff, Prod.exists]
  constructor
  · rintro (h | ⟨a, ha, h | ⟨v, u, hr, h | ⟨t, -, h⟩⟩⟩)
    · exact .inl h
    · exact .inr ⟨a, ha, .inl h⟩
    · exact .inr ⟨a, ha, .inr ⟨v, u, hr, h⟩⟩
    · cases h
  · rintro (h | ⟨a, ha, h | ⟨v, u, hr, h⟩⟩)
    · exact .inl h
    · exact .inr ⟨a, ha, .inl h⟩
    · exact .inr ⟨a, ha, .inr ⟨v, u, hr, .inl h⟩⟩

theorem modifyWord_error {next : Addr} {m : MemOp} {g : Word → Word} {s : State} {f : Fault} :
    modifyWord next m g s = .error f ↔ wordAddr s m = .error f ∨ ∃ a, wordAddr s m = .ok a ∧
      (WordReadFails s a f ∨ ∃ v u, WordRead s a v u ∧ store16 next a (g v) u = .error f) := by
  simp only [modifyWord, bind_error, read16_error, read16_iff, Prod.exists]

/-! ### Bit operands -/

/-- The byte that holds the bit is A or the operand byte. -/
theorem loadBitByte_iff {l : BitLoc} {s t : State} {v : Byte} :
    loadBitByte l s = .ok (v, t) ↔ (l = .a ∧ v = s.r8 s.bank .a ∧ t = s) ∨
      (∃ m a, l = .mem m ∧ byteAddr s m = .ok a ∧ ByteRead s a v t) := by
  cases l with
  | a => simp [loadBitByte, eq_comm]
  | mem m => simp [loadBitByte, loadByte_iff]

theorem modifyBit_iff {next : Addr} {l : BitLoc} {bit : BitVec 3} {b : Bool} {s t : State} :
    modifyBit next l bit b s = .ok t ↔
      (l = .a ∧ t = s.setR8 s.bank .a (setBit8 (s.r8 s.bank .a) bit.toNat b)) ∨
      (∃ m a v s1, l = .mem m ∧ byteAddr s m = .ok a ∧ ByteRead s a v s1 ∧ stale s1 next a = false ∧
        ByteWritten s1 a (setBit8 v bit.toNat b) t) := by
  cases l with
  | a =>
    constructor
    · intro h; exact .inl ⟨rfl, (Except.ok.inj h).symm⟩
    · rintro (⟨-, rfl⟩ | ⟨_, _, _, _, h, -⟩)
      · rfl
      · cases h
  | mem m =>
    simp only [modifyBit, bind_ok]
    constructor
    · rintro ⟨⟨_, u⟩, h, h'⟩
      obtain ⟨a, v, s1, ha, h1, h2, h3, -⟩ := modifyByte_iff.mp h
      obtain rfl : u = t := by simpa using h'
      exact .inr ⟨m, a, v, s1, rfl, ha, h1, h2, h3⟩
    · rintro (⟨h, -⟩ | ⟨m', a, v, s1, hm, ha, h1, h2, h3⟩)
      · cases h
      · cases hm
        exact ⟨((), t), modifyByte_iff.mpr ⟨a, v, s1, ha, h1, h2, h3, rfl⟩, rfl⟩

/-! ### The shared shapes -/

theorem execShift8_iff {i : Instr} {r : Reg8} {x : Byte × Bool} {s t : State} :
    execShift8 i r x s = .ok t ↔ flows i s ∧ t = finish s ((s.setR8 s.bank r x.1).setCy x.2) (nextPc i s) false :=
  retire_iff

theorem execShift16_iff {i : Instr} {rp : Reg16} {x : Word × Bool} {s t : State} :
    execShift16 i rp x s = .ok t ↔
      flows i s ∧ t = finish s ((s.setR16 s.bank rp x.1).setCy x.2) (nextPc i s) false :=
  retire_iff

theorem execToCy_iff {i : Instr} {f : Bool → Bool → Bool} {l : BitLoc} {bit : BitVec 3} {s t : State} :
    execToCy i f l bit s = .ok t ↔ ∃ v u, loadBitByte l s = .ok (v, u) ∧ flows i s ∧
      t = finish s (u.setCy (f (pswCY s.psw) (v.getLsbD bit.toNat))) (nextPc i s) false := by
  simp only [execToCy, bind_ok, retire_iff, Prod.exists]

theorem execToBit_iff {i : Instr} {b : Bool} {l : BitLoc} {bit : BitVec 3} {s t : State} :
    execToBit i b l bit s = .ok t ↔ ∃ u, modifyBit (nextPc i s) l bit b s = .ok u ∧ flows i s ∧
      t = finish s u (nextPc i s) (isPswBit l) := by
  simp only [execToBit, bind_ok, retire_iff]

theorem callTo_iff {i : Instr} {target : Addr} {s t : State} :
    callTo i target s = .ok t ↔ stackStale s (nextPc i s) [-1, -2, -3, -4] = false ∧ ∃ u,
      push4 (nextPc i s) 0x00 s = .ok u ∧ t = finish s u target false := by
  simp only [callTo, bind_ok, pushing_iff, Except.ok.injEq]
  constructor
  · rintro ⟨u, ⟨h1, h2⟩, rfl⟩; exact ⟨h1, u, h2, rfl⟩
  · rintro ⟨h1, u, h2, rfl⟩; exact ⟨u, ⟨h1, h2⟩, rfl⟩

theorem branchIf_iff {i : Instr} {cond : Bool} {disp : Byte} {s t : State} :
    branchIf i cond disp s = .ok t ↔
      (cond = true ∧ crosses s.product s.pc.toNat (rel8 i s disp).toNat = false ∧
        t = finish s s (rel8 i s disp) false) ∨
      (cond = false ∧ flows i s ∧ t = finish s s (nextPc i s) false) := by
  cases cond <;> simp [branchIf, branchTo_iff, retire_iff]

theorem skipIf_iff {i : Instr} {cond : Bool} {s t : State} :
    skipIf i cond s = .ok t ↔
      (cond = true ∧ flows i s ∧ ∃ j n, fetchAt s (nextPc i s).toNat = .ok (j, n) ∧ j ≠ .prefixAlone ∧
        crosses s.product s.pc.toNat (nextPc i s + BitVec.ofNat 20 n).toNat = false ∧
        t = finish s s (nextPc i s + BitVec.ofNat 20 n) false) ∨
      (cond = false ∧ flows i s ∧ t = finish s s (nextPc i s) true) := by
  cases cond with
  | false => simp [skipIf, retire_iff]
  | true =>
    simp only [skipIf, if_true, flows]
    cases hf : crosses s.product s.pc.toNat (nextPc i s).toNat with
    | true => simp
    | false =>
      simp only [Bool.false_eq_true, if_false, bind_ok, Prod.exists]
      constructor
      · rintro ⟨j, n, h1, h⟩
        split at h
        · cases h
        · next hj =>
          split at h
          · cases h
          · next hc => exact .inl ⟨trivial, trivial, j, n, h1, hj, by simpa using hc, (Except.ok.inj h).symm⟩
      · rintro (⟨-, -, j, n, h1, hj, hc, rfl⟩ | ⟨h, -⟩)
        · exact ⟨j, n, h1, by rw [if_neg hj, if_neg (by rw [hc]; decide)]⟩
        · cases h

end Sys2Proof.Machine
end

