-- ==== Sys2Proof/Laws/PerInstr.lean ====
section
/-! SUPPORT. The per-instruction family `EncodedSize`: a well-formed instruction takes 1 to 5 bytes (`30_encoding.md` R100,
R102). -/

namespace Sys2Proof.Laws.EncodedSize

-- One proof at a time: many at once would each take a thread and its stack.
set_option Elab.async false

/-- A well-formed instruction is encoded in 1 to 5 bytes. -/
def Statement (i : Instr) : Prop := i.wf = true → 1 ≤ (encode i).length ∧ (encode i).length ≤ 5

theorem alu_size (n : Byte) (o : AluOp) (h : o.wfCmp = true) : 1 ≤ (encAlu n o).length ∧ (encAlu n o).length ≤ 5 := by
  cases o with
  | aMem m =>
    cases m <;> first
      | (simp [AluOp.wfCmp, AluOp.wf, MemOp.isIn, MemOp.cls] at h; done)
      | (rename_i x; cases x <;> simp [encAlu, memForm, MemOp.cls, MemOp.bytes, MemOp.es, esByte, opAluMem]; done)
      | (rename_i x y; cases x <;> simp [encAlu, memForm, MemOp.cls, MemOp.bytes, MemOp.es, esByte, opAluMem]; done)
      | simp [encAlu, memForm, MemOp.cls, MemOp.bytes, MemOp.es, esByte, opAluMem]
  | absImm es w d => cases es <;> simp [encAlu, esByte, wordBytes]
  | _ => simp [encAlu]

theorem wfCmp_of_wf {o : AluOp} (h : o.wf = true) : o.wfCmp = true := by
  cases o <;> simp_all [AluOp.wfCmp, AluOp.wf]

theorem aluW_size (n : Byte) (b : Bool) (o : AluWOp) (h : o.wf b = true) :
    1 ≤ (encAluW n o).length ∧ (encAluW n o).length ≤ 5 := by
  cases o with
  | mem m =>
    cases m <;> first
      | (simp [AluWOp.wf, MemOp.isIn, MemOp.cls] at h; done)
      | (rename_i x; cases x <;> simp [encAluW, memForm, MemOp.cls, MemOp.bytes, MemOp.es, esByte, opSaddrAbsHl]; done)
      | (rename_i x y; cases x <;> simp [encAluW, memForm, MemOp.cls, MemOp.bytes, MemOp.es, esByte, opSaddrAbsHl]; done)
      | simp [encAluW, memForm, MemOp.cls, MemOp.bytes, MemOp.es, esByte, opSaddrAbsHl]
  | _ => simp [encAluW, wordBytes]

theorem bit3_size (s f w : Byte) (bit : BitVec 3) (l : BitLoc) (h : l.wfSetClr bit = true ∨ l.wf = true) :
    1 ≤ (encBit3 s f w bit l).length ∧ (encBit3 s f w bit l).length ≤ 5 := by
  cases l with
  | a => simp [encBit3]
  | mem m =>
    cases m <;> first
      | (simp [BitLoc.wf, BitLoc.wfSetClr, MemOp.isIn, MemOp.cls] at h; done)
      | (rename_i x; cases x <;> simp [encBit3, memForm, MemOp.cls, MemOp.bytes, MemOp.es, esByte]; done)
      | (rename_i x y; cases x <;> simp [encBit3, memForm, MemOp.cls, MemOp.bytes, MemOp.es, esByte]; done)
      | simp [encBit3, memForm, MemOp.cls, MemOp.bytes, MemOp.es, esByte]

theorem bit4_size (k : Byte) (bit : BitVec 3) (d : Byte) (l : BitLoc) (h : l.wf = true) :
    1 ≤ (encBit4 k bit d l).length ∧ (encBit4 k bit d l).length ≤ 5 := by
  cases l with
  | a => simp [encBit4]
  | mem m =>
    cases m <;> first
      | (simp [BitLoc.wf, MemOp.isIn, MemOp.cls] at h; done)
      | (rename_i x; cases x <;> simp [encBit4, memForm, MemOp.cls, MemOp.bytes, MemOp.es, esByte]; done)
      | simp [encBit4, memForm, MemOp.cls, MemOp.bytes, MemOp.es, esByte]

theorem movRI (r : Reg8) (data : Byte) : Statement (.movRI r data) := by
  simp [Statement, encode, encShift, wordBytes, addrBytes]

theorem movMI (m : MemOp) (data : Byte) : Statement (.movMI m data) := by
  intro h
  cases m <;> first
    | (simp [Instr.wf, MemOp.isIn, MemOp.cls] at h; done)
    | (rename_i x; cases x <;> simp [encode, memForm, esByte, MemOp.es, MemOp.cls, MemOp.bytes, opMovMI, wordBytes]; done)
    | (rename_i x y; cases x <;> simp [encode, memForm, esByte, MemOp.es, MemOp.cls, MemOp.bytes, opMovMI, wordBytes]; done)
    | simp [encode, memForm, esByte, MemOp.es, MemOp.cls, MemOp.bytes, opMovMI, wordBytes]

theorem movAR (r : Reg8) : Statement (.movAR r) := by
  simp [Statement, encode, encShift, wordBytes, addrBytes]

theorem movRA (r : Reg8) : Statement (.movRA r) := by
  simp [Statement, encode, encShift, wordBytes, addrBytes]

theorem movAM (m : MemOp) : Statement (.movAM m) := by
  intro h
  cases m <;> first
    | (simp [Instr.wf, MemOp.isIn, MemOp.cls] at h; done)
    | (rename_i x; cases x <;> simp [encode, memForm, esByte, MemOp.es, MemOp.cls, MemOp.bytes, opMovAM, wordBytes]; done)
    | (rename_i x y; cases x <;> simp [encode, memForm, esByte, MemOp.es, MemOp.cls, MemOp.bytes, opMovAM, wordBytes]; done)
    | simp [encode, memForm, esByte, MemOp.es, MemOp.cls, MemOp.bytes, opMovAM, wordBytes]

theorem movMA (m : MemOp) : Statement (.movMA m) := by
  intro h
  cases m <;> first
    | (simp [Instr.wf, MemOp.isIn, MemOp.cls] at h; done)
    | (rename_i x; cases x <;> simp [encode, memForm, esByte, MemOp.es, MemOp.cls, MemOp.bytes, opMovMA, wordBytes]; done)
    | (rename_i x y; cases x <;> simp [encode, memForm, esByte, MemOp.es, MemOp.cls, MemOp.bytes, opMovMA, wordBytes]; done)
    | simp [encode, memForm, esByte, MemOp.es, MemOp.cls, MemOp.bytes, opMovMA, wordBytes]

theorem movRM (r : Reg8) (m : MemOp) : Statement (.movRM r m) := by
  intro h
  cases r <;> cases m <;> first
    | (simp [Instr.wf, MemOp.isIn, MemOp.cls] at h; done)
    | (rename_i x; cases x <;> simp [encode, memForm, esByte, MemOp.es, MemOp.cls, MemOp.bytes, opSaddrAbs, wordBytes]; done)
    | (rename_i x y; cases x <;> simp [encode, memForm, esByte, MemOp.es, MemOp.cls, MemOp.bytes, opSaddrAbs, wordBytes]; done)
    | simp [encode, memForm, esByte, MemOp.es, MemOp.cls, MemOp.bytes, opSaddrAbs, wordBytes]

theorem movEsI (data : Byte) : Statement (.movEsI data) := by
  simp [Statement, encode, encShift, wordBytes, addrBytes]

theorem movEsSaddr (off : Byte) : Statement (.movEsSaddr off) := by
  simp [Statement, encode, encShift, wordBytes, addrBytes]

theorem xchAR (r : Reg8) : Statement (.xchAR r) := by
  cases r <;> simp [Statement, encode]

theorem xchAM (m : MemOp) : Statement (.xchAM m) := by
  intro h
  cases m <;> first
    | (simp [Instr.wf, MemOp.isIn, MemOp.cls] at h; done)
    | (rename_i x; cases x <;> simp [encode, memForm, esByte, MemOp.es, MemOp.cls, MemOp.bytes, opXchAM, wordBytes]; done)
    | (rename_i x y; cases x <;> simp [encode, memForm, esByte, MemOp.es, MemOp.cls, MemOp.bytes, opXchAM, wordBytes]; done)
    | simp [encode, memForm, esByte, MemOp.es, MemOp.cls, MemOp.bytes, opXchAM, wordBytes]

theorem onebR (r : Reg8) : Statement (.onebR r) := by
  simp [Statement, encode, encShift, wordBytes, addrBytes]

theorem onebM (m : MemOp) : Statement (.onebM m) := by
  intro h
  cases m <;> first
    | (simp [Instr.wf, MemOp.isIn, MemOp.cls] at h; done)
    | (rename_i x; cases x <;> simp [encode, memForm, esByte, MemOp.es, MemOp.cls, MemOp.bytes, opSaddrAbs, wordBytes]; done)
    | (rename_i x y; cases x <;> simp [encode, memForm, esByte, MemOp.es, MemOp.cls, MemOp.bytes, opSaddrAbs, wordBytes]; done)
    | simp [encode, memForm, esByte, MemOp.es, MemOp.cls, MemOp.bytes, opSaddrAbs, wordBytes]

theorem clrbR (r : Reg8) : Statement (.clrbR r) := by
  simp [Statement, encode, encShift, wordBytes, addrBytes]

theorem clrbM (m : MemOp) : Statement (.clrbM m) := by
  intro h
  cases m <;> first
    | (simp [Instr.wf, MemOp.isIn, MemOp.cls] at h; done)
    | (rename_i x; cases x <;> simp [encode, memForm, esByte, MemOp.es, MemOp.cls, MemOp.bytes, opSaddrAbs, wordBytes]; done)
    | (rename_i x y; cases x <;> simp [encode, memForm, esByte, MemOp.es, MemOp.cls, MemOp.bytes, opSaddrAbs, wordBytes]; done)
    | simp [encode, memForm, esByte, MemOp.es, MemOp.cls, MemOp.bytes, opSaddrAbs, wordBytes]

theorem movs (es : Bool) (off : Byte) : Statement (.movs es off) := by
  cases es <;> simp [Statement, encode, esByte]

theorem movwRI (rp : Reg16) (data : Word) : Statement (.movwRI rp data) := by
  simp [Statement, encode, encShift, wordBytes, addrBytes]

theorem movwMI (m : MemOp) (data : Word) : Statement (.movwMI m data) := by
  intro h
  cases m <;> first
    | (simp [Instr.wf, MemOp.isIn, MemOp.cls] at h; done)
    | (rename_i x; cases x <;> simp [encode, memForm, esByte, MemOp.es, MemOp.cls, MemOp.bytes, opMovwMI, wordBytes]; done)
    | (rename_i x y; cases x <;> simp [encode, memForm, esByte, MemOp.es, MemOp.cls, MemOp.bytes, opMovwMI, wordBytes]; done)
    | simp [encode, memForm, esByte, MemOp.es, MemOp.cls, MemOp.bytes, opMovwMI, wordBytes]

theorem movwAxR (rp : Reg16) : Statement (.movwAxR rp) := by
  simp [Statement, encode, encShift, wordBytes, addrBytes]

theorem movwRAx (rp : Reg16) : Statement (.movwRAx rp) := by
  simp [Statement, encode, encShift, wordBytes, addrBytes]

theorem movwAxM (m : MemOp) : Statement (.movwAxM m) := by
  intro h
  cases m <;> first
    | (simp [Instr.wf, MemOp.isIn, MemOp.cls] at h; done)
    | (rename_i x; cases x <;> simp [encode, memForm, esByte, MemOp.es, MemOp.cls, MemOp.bytes, opMovwAxM, wordBytes]; done)
    | (rename_i x y; cases x <;> simp [encode, memForm, esByte, MemOp.es, MemOp.cls, MemOp.bytes, opMovwAxM, wordBytes]; done)
    | simp [encode, memForm, esByte, MemOp.es, MemOp.cls, MemOp.bytes, opMovwAxM, wordBytes]

theorem movwMAx (m : MemOp) : Statement (.movwMAx m) := by
  intro h
  cases m <;> first
    | (simp [Instr.wf, MemOp.isIn, MemOp.cls] at h; done)
    | (rename_i x; cases x <;> simp [encode, memForm, esByte, MemOp.es, MemOp.cls, MemOp.bytes, opMovwMAx, wordBytes]; done)
    | (rename_i x y; cases x <;> simp [encode, memForm, esByte, MemOp.es, MemOp.cls, MemOp.bytes, opMovwMAx, wordBytes]; done)
    | simp [encode, memForm, esByte, MemOp.es, MemOp.cls, MemOp.bytes, opMovwMAx, wordBytes]

theorem movwRM (rp : Reg16) (m : MemOp) : Statement (.movwRM rp m) := by
  intro h
  cases rp <;> cases m <;> first
    | (simp [Instr.wf, MemOp.isIn, MemOp.cls] at h; done)
    | (rename_i x; cases x <;> simp [encode, memForm, esByte, MemOp.es, MemOp.cls, MemOp.bytes, opSaddrAbs, wordBytes]; done)
    | (rename_i x y; cases x <;> simp [encode, memForm, esByte, MemOp.es, MemOp.cls, MemOp.bytes, opSaddrAbs, wordBytes]; done)
    | simp [encode, memForm, esByte, MemOp.es, MemOp.cls, MemOp.bytes, opSaddrAbs, wordBytes]

theorem xchw (rp : Reg16) : Statement (.xchw rp) := by
  simp [Statement, encode, encShift, wordBytes, addrBytes]

theorem onew (rp : Reg16) : Statement (.onew rp) := by
  simp [Statement, encode, encShift, wordBytes, addrBytes]

theorem clrw (rp : Reg16) : Statement (.clrw rp) := by
  simp [Statement, encode, encShift, wordBytes, addrBytes]

theorem add (o : AluOp) : Statement (.add o) := fun h => alu_size _ _ (wfCmp_of_wf h)

theorem addc (o : AluOp) : Statement (.addc o) := fun h => alu_size _ _ (wfCmp_of_wf h)

theorem sub (o : AluOp) : Statement (.sub o) := fun h => alu_size _ _ (wfCmp_of_wf h)

theorem subc (o : AluOp) : Statement (.subc o) := fun h => alu_size _ _ (wfCmp_of_wf h)

theorem and (o : AluOp) : Statement (.and o) := fun h => alu_size _ _ (wfCmp_of_wf h)

theorem or (o : AluOp) : Statement (.or o) := fun h => alu_size _ _ (wfCmp_of_wf h)

theorem xor (o : AluOp) : Statement (.xor o) := fun h => alu_size _ _ (wfCmp_of_wf h)

theorem cmp (o : AluOp) : Statement (.cmp o) := fun h => alu_size _ _ h

theorem cmp0R (r : Reg8) : Statement (.cmp0R r) := by
  simp [Statement, encode, encShift, wordBytes, addrBytes]

theorem cmp0M (m : MemOp) : Statement (.cmp0M m) := by
  intro h
  cases m <;> first
    | (simp [Instr.wf, MemOp.isIn, MemOp.cls] at h; done)
    | (rename_i x; cases x <;> simp [encode, memForm, esByte, MemOp.es, MemOp.cls, MemOp.bytes, opSaddrAbs, wordBytes]; done)
    | (rename_i x y; cases x <;> simp [encode, memForm, esByte, MemOp.es, MemOp.cls, MemOp.bytes, opSaddrAbs, wordBytes]; done)
    | simp [encode, memForm, esByte, MemOp.es, MemOp.cls, MemOp.bytes, opSaddrAbs, wordBytes]

theorem cmps (es : Bool) (off : Byte) : Statement (.cmps es off) := by
  cases es <;> simp [Statement, encode, esByte]

theorem addw (o : AluWOp) : Statement (.addw o) := fun h => aluW_size _ true _ h

theorem subw (o : AluWOp) : Statement (.subw o) := fun h => aluW_size _ false _ h

theorem cmpw (o : AluWOp) : Statement (.cmpw o) := fun h => aluW_size _ false _ h

theorem addwSp (data : Byte) : Statement (.addwSp data) := by
  simp [Statement, encode, encShift, wordBytes, addrBytes]

theorem subwSp (data : Byte) : Statement (.subwSp data) := by
  simp [Statement, encode, encShift, wordBytes, addrBytes]

theorem mulu : Statement .mulu := by
  simp [Statement, encode, encShift, wordBytes, addrBytes]

theorem incR (r : Reg8) : Statement (.incR r) := by
  simp [Statement, encode, encShift, wordBytes, addrBytes]

theorem incM (m : MemOp) : Statement (.incM m) := by
  intro h
  cases m <;> first
    | (simp [Instr.wf, MemOp.isIn, MemOp.cls] at h; done)
    | (rename_i x; cases x <;> simp [encode, memForm, esByte, MemOp.es, MemOp.cls, MemOp.bytes, opSaddrAbsHl, wordBytes]; done)
    | (rename_i x y; cases x <;> simp [encode, memForm, esByte, MemOp.es, MemOp.cls, MemOp.bytes, opSaddrAbsHl, wordBytes]; done)
    | simp [encode, memForm, esByte, MemOp.es, MemOp.cls, MemOp.bytes, opSaddrAbsHl, wordBytes]

theorem decR (r : Reg8) : Statement (.decR r) := by
  simp [Statement, encode, encShift, wordBytes, addrBytes]

theorem decM (m : MemOp) : Statement (.decM m) := by
  intro h
  cases m <;> first
    | (simp [Instr.wf, MemOp.isIn, MemOp.cls] at h; done)
    | (rename_i x; cases x <;> simp [encode, memForm, esByte, MemOp.es, MemOp.cls, MemOp.bytes, opSaddrAbsHl, wordBytes]; done)
    | (rename_i x y; cases x <;> simp [encode, memForm, esByte, MemOp.es, MemOp.cls, MemOp.bytes, opSaddrAbsHl, wordBytes]; done)
    | simp [encode, memForm, esByte, MemOp.es, MemOp.cls, MemOp.bytes, opSaddrAbsHl, wordBytes]

theorem incwR (rp : Reg16) : Statement (.incwR rp) := by
  simp [Statement, encode, encShift, wordBytes, addrBytes]

theorem incwM (m : MemOp) : Statement (.incwM m) := by
  intro h
  cases m <;> first
    | (simp [Instr.wf, MemOp.isIn, MemOp.cls] at h; done)
    | (rename_i x; cases x <;> simp [encode, memForm, esByte, MemOp.es, MemOp.cls, MemOp.bytes, opSaddrAbsHl, wordBytes]; done)
    | (rename_i x y; cases x <;> simp [encode, memForm, esByte, MemOp.es, MemOp.cls, MemOp.bytes, opSaddrAbsHl, wordBytes]; done)
    | simp [encode, memForm, esByte, MemOp.es, MemOp.cls, MemOp.bytes, opSaddrAbsHl, wordBytes]

theorem decwR (rp : Reg16) : Statement (.decwR rp) := by
  simp [Statement, encode, encShift, wordBytes, addrBytes]

theorem decwM (m : MemOp) : Statement (.decwM m) := by
  intro h
  cases m <;> first
    | (simp [Instr.wf, MemOp.isIn, MemOp.cls] at h; done)
    | (rename_i x; cases x <;> simp [encode, memForm, esByte, MemOp.es, MemOp.cls, MemOp.bytes, opSaddrAbsHl, wordBytes]; done)
    | (rename_i x y; cases x <;> simp [encode, memForm, esByte, MemOp.es, MemOp.cls, MemOp.bytes, opSaddrAbsHl, wordBytes]; done)
    | simp [encode, memForm, esByte, MemOp.es, MemOp.cls, MemOp.bytes, opSaddrAbsHl, wordBytes]

theorem shr (cnt : BitVec 4) : Statement (.shr cnt) := by
  simp [Statement, encode, encShift, wordBytes, addrBytes]

theorem shrw (cnt : BitVec 4) : Statement (.shrw cnt) := by
  simp [Statement, encode, encShift, wordBytes, addrBytes]

theorem shl (r : Reg8) (cnt : BitVec 4) : Statement (.shl r cnt) := by
  simp [Statement, encode, encShift, wordBytes, addrBytes]

theorem shlw (rp : Reg16) (cnt : BitVec 4) : Statement (.shlw rp cnt) := by
  simp [Statement, encode, encShift, wordBytes, addrBytes]

theorem sar (cnt : BitVec 4) : Statement (.sar cnt) := by
  simp [Statement, encode, encShift, wordBytes, addrBytes]

theorem sarw (cnt : BitVec 4) : Statement (.sarw cnt) := by
  simp [Statement, encode, encShift, wordBytes, addrBytes]

theorem ror : Statement .ror := by
  simp [Statement, encode, encShift, wordBytes, addrBytes]

theorem rol : Statement .rol := by
  simp [Statement, encode, encShift, wordBytes, addrBytes]

theorem rorc : Statement .rorc := by
  simp [Statement, encode, encShift, wordBytes, addrBytes]

theorem rolc : Statement .rolc := by
  simp [Statement, encode, encShift, wordBytes, addrBytes]

theorem rolwc (rp : Reg16) : Statement (.rolwc rp) := by
  cases rp <;> simp [Statement, encode]

theorem mov1Cy (loc : BitLoc) (bit : BitVec 3) : Statement (.mov1Cy loc bit) := fun h => bit3_size _ _ _ _ _ (.inr h)

theorem mov1Bit (loc : BitLoc) (bit : BitVec 3) : Statement (.mov1Bit loc bit) := fun h => bit3_size _ _ _ _ _ (.inr h)

theorem and1 (loc : BitLoc) (bit : BitVec 3) : Statement (.and1 loc bit) := fun h => bit3_size _ _ _ _ _ (.inr h)

theorem or1 (loc : BitLoc) (bit : BitVec 3) : Statement (.or1 loc bit) := fun h => bit3_size _ _ _ _ _ (.inr h)

theorem xor1 (loc : BitLoc) (bit : BitVec 3) : Statement (.xor1 loc bit) := fun h => bit3_size _ _ _ _ _ (.inr h)

theorem set1 (loc : BitLoc) (bit : BitVec 3) : Statement (.set1 loc bit) := fun h => bit3_size _ _ _ _ _ (.inl h)

theorem clr1 (loc : BitLoc) (bit : BitVec 3) : Statement (.clr1 loc bit) := fun h => bit3_size _ _ _ _ _ (.inl h)

theorem set1Cy : Statement .set1Cy := by
  simp [Statement, encode, encShift, wordBytes, addrBytes]

theorem clr1Cy : Statement .clr1Cy := by
  simp [Statement, encode, encShift, wordBytes, addrBytes]

theorem not1Cy : Statement .not1Cy := by
  simp [Statement, encode, encShift, wordBytes, addrBytes]

theorem callR (rp : Reg16) : Statement (.callR rp) := by
  simp [Statement, encode, encShift, wordBytes, addrBytes]

theorem callRel (disp : Word) : Statement (.callRel disp) := by
  simp [Statement, encode, encShift, wordBytes, addrBytes]

theorem callAbs16 (addr : Word) : Statement (.callAbs16 addr) := by
  simp [Statement, encode, encShift, wordBytes, addrBytes]

theorem callAbs20 (addr : Addr) : Statement (.callAbs20 addr) := by
  simp [Statement, encode, encShift, wordBytes, addrBytes]

theorem callt (k : BitVec 5) : Statement (.callt k) := by
  simp [Statement, encode, encShift, wordBytes, addrBytes]

theorem brk : Statement .brk := by
  simp [Statement, encode, encShift, wordBytes, addrBytes]

theorem ret : Statement .ret := by
  simp [Statement, encode, encShift, wordBytes, addrBytes]

theorem reti : Statement .reti := by
  simp [Statement, encode, encShift, wordBytes, addrBytes]

theorem retb : Statement .retb := by
  simp [Statement, encode, encShift, wordBytes, addrBytes]

theorem pushPsw : Statement .pushPsw := by
  simp [Statement, encode, encShift, wordBytes, addrBytes]

theorem pushR (rp : Reg16) : Statement (.pushR rp) := by
  simp [Statement, encode, encShift, wordBytes, addrBytes]

theorem popPsw : Statement .popPsw := by
  simp [Statement, encode, encShift, wordBytes, addrBytes]

theorem popR (rp : Reg16) : Statement (.popR rp) := by
  simp [Statement, encode, encShift, wordBytes, addrBytes]

theorem brAx : Statement .brAx := by
  simp [Statement, encode, encShift, wordBytes, addrBytes]

theorem brRel8 (disp : Byte) : Statement (.brRel8 disp) := by
  simp [Statement, encode, encShift, wordBytes, addrBytes]

theorem brRel16 (disp : Word) : Statement (.brRel16 disp) := by
  simp [Statement, encode, encShift, wordBytes, addrBytes]

theorem brAbs16 (addr : Word) : Statement (.brAbs16 addr) := by
  simp [Statement, encode, encShift, wordBytes, addrBytes]

theorem brAbs20 (addr : Addr) : Statement (.brAbs20 addr) := by
  simp [Statement, encode, encShift, wordBytes, addrBytes]

theorem bc (disp : Byte) : Statement (.bc disp) := by
  simp [Statement, encode, encShift, wordBytes, addrBytes]

theorem bnc (disp : Byte) : Statement (.bnc disp) := by
  simp [Statement, encode, encShift, wordBytes, addrBytes]

theorem bz (disp : Byte) : Statement (.bz disp) := by
  simp [Statement, encode, encShift, wordBytes, addrBytes]

theorem bnz (disp : Byte) : Statement (.bnz disp) := by
  simp [Statement, encode, encShift, wordBytes, addrBytes]

theorem bh (disp : Byte) : Statement (.bh disp) := by
  simp [Statement, encode, encShift, wordBytes, addrBytes]

theorem bnh (disp : Byte) : Statement (.bnh disp) := by
  simp [Statement, encode, encShift, wordBytes, addrBytes]

theorem bt (loc : BitLoc) (bit : BitVec 3) (disp : Byte) : Statement (.bt loc bit disp) := fun h => bit4_size _ _ _ _ h

theorem bf (loc : BitLoc) (bit : BitVec 3) (disp : Byte) : Statement (.bf loc bit disp) := fun h => bit4_size _ _ _ _ h

theorem btclr (loc : BitLoc) (bit : BitVec 3) (disp : Byte) : Statement (.btclr loc bit disp) := fun h => bit4_size _ _ _ _ h

theorem skc : Statement .skc := by
  simp [Statement, encode, encShift, wordBytes, addrBytes]

theorem sknc : Statement .sknc := by
  simp [Statement, encode, encShift, wordBytes, addrBytes]

theorem skz : Statement .skz := by
  simp [Statement, encode, encShift, wordBytes, addrBytes]

theorem sknz : Statement .sknz := by
  simp [Statement, encode, encShift, wordBytes, addrBytes]

theorem skh : Statement .skh := by
  simp [Statement, encode, encShift, wordBytes, addrBytes]

theorem sknh : Statement .sknh := by
  simp [Statement, encode, encShift, wordBytes, addrBytes]

theorem sel (n : BitVec 2) : Statement (.sel n) := by
  simp [Statement, encode, encShift, wordBytes, addrBytes]

theorem nop : Statement .nop := by
  simp [Statement, encode, encShift, wordBytes, addrBytes]

theorem ei : Statement .ei := by
  simp [Statement, encode, encShift, wordBytes, addrBytes]

theorem di : Statement .di := by
  simp [Statement, encode, encShift, wordBytes, addrBytes]

theorem halt : Statement .halt := by
  simp [Statement, encode, encShift, wordBytes, addrBytes]

theorem stop : Statement .stop := by
  simp [Statement, encode, encShift, wordBytes, addrBytes]

theorem prefixAlone : Statement .prefixAlone := by
  simp [Statement, encode, encShift, wordBytes, addrBytes]

end Sys2Proof.Laws.EncodedSize
end

