-- ==== Sys2Proof/Tests/Slice0.lean ====
section
/-! SUPPORT. Tests: ill-formed terms that `Instr.wf` refuses, a word of every constructor written out from the encoding tables
of `spec/`, single steps from the worked examples and vectors of `95_test_vectors.md`, and for every obligation with
hypotheses a state and operands that meet them. -/

/-- A byte of memory or of a register, placed by a test. -/
def Sys2Proof.Machine.State.put (s : Sys2Proof.Machine.State) (a : Nat) (v : Sys2Proof.Byte) : Sys2Proof.Machine.State :=
  if 0xFFEE0 ≤ a then s.setRegByte (a - 0xFFEE0) v else { s with mem := Sys2Proof.Machine.memWrite a v s.mem }

namespace Sys2Proof.Tests

open Sys2Proof.Machine

-- One kernel evaluation at a time: hundreds of them at once would each take a thread's stack.
set_option Elab.async false

/-! ### Well-formedness: one refused term for each check -/

theorem test_wf_refuses_MOV_mem_immediate_HL : (Instr.movMI (.hl false) 1).wf = false := by decide +kernel
theorem test_wf_refuses_MOV_A_A : (Instr.movAR .a).wf = false ∧ (Instr.movRA .a).wf = false := by decide +kernel
theorem test_wf_refuses_MOV_D_mem : (Instr.movRM .d (.saddr 0x20)).wf = false := by decide +kernel
theorem test_wf_refuses_MOV_X_from_HL : (Instr.movRM .x (.hl false)).wf = false := by decide +kernel
theorem test_wf_refuses_XCH_A_A : (Instr.xchAR .a).wf = false := by decide +kernel
theorem test_wf_refuses_XCH_A_stack : (Instr.xchAM (.spOff 2)).wf = false := by decide +kernel
theorem test_wf_refuses_ONEB_CLRB_CMP0_H :
    (Instr.onebR .h).wf = false ∧ (Instr.clrbR .h).wf = false ∧ (Instr.cmp0R .h).wf = false := by decide +kernel
theorem test_wf_refuses_ONEB_CLRB_CMP0_sfr :
    (Instr.onebM (.sfr 0)).wf = false ∧ (Instr.clrbM (.sfr 0)).wf = false ∧ (Instr.cmp0M (.sfr 0)).wf = false := by
  decide +kernel
theorem test_wf_refuses_MOVW_immediate_abs : (Instr.movwMI (.abs false 0xFE20) 1).wf = false := by decide +kernel
theorem test_wf_refuses_MOVW_XCHW_AX_AX :
    (Instr.movwAxR .ax).wf = false ∧ (Instr.movwRAx .ax).wf = false ∧ (Instr.xchw .ax).wf = false := by decide +kernel
theorem test_wf_refuses_MOVW_based_indexed :
    (Instr.movwAxM (.hlB false)).wf = false ∧ (Instr.movwMAx (.hlC true)).wf = false := by decide +kernel
theorem test_wf_refuses_MOVW_rp_sfr :
    (Instr.movwRM .bc (.sfr 0xF8)).wf = false ∧ (Instr.movwRM .ax (.saddr 0x20)).wf = false := by decide +kernel
theorem test_wf_refuses_ONEW_CLRW_ROLWC_DE :
    (Instr.onew .de).wf = false ∧ (Instr.clrw .de).wf = false ∧ (Instr.rolwc .de).wf = false := by decide +kernel
theorem test_wf_refuses_ADD_A_A_as_source : (Instr.add (.aReg .a)).wf = false := by decide +kernel
theorem test_wf_refuses_operation_with_sfr : (Instr.xor (.aMem (.sfr 0))).wf = false := by decide +kernel
theorem test_wf_refuses_abs_immediate_but_for_CMP :
    (Instr.sub (.absImm false 0 0)).wf = false ∧ (Instr.cmp (.absImm false 0 0)).wf = true := by decide +kernel
theorem test_wf_refuses_SUBW_CMPW_AX_AX :
    (Instr.subw (.reg .ax)).wf = false ∧ (Instr.cmpw (.reg .ax)).wf = false ∧ (Instr.addw (.reg .ax)).wf = true := by
  decide +kernel
theorem test_wf_refuses_ADDW_sfr : (Instr.addw (.mem (.sfr 0xF8))).wf = false := by decide +kernel
theorem test_wf_refuses_INC_DEC_HL :
    (Instr.incM (.hl false)).wf = false ∧ (Instr.decM (.hl false)).wf = false ∧ (Instr.incwM (.hl false)).wf = false ∧
      (Instr.decwM (.hl false)).wf = false := by decide +kernel
theorem test_wf_refuses_byte_shift_counts_0_and_8 :
    (Instr.shr 0).wf = false ∧ (Instr.shl .a 8).wf = false ∧ (Instr.sar 8).wf = false ∧ (Instr.shr 7).wf = true := by
  decide +kernel
theorem test_wf_refuses_word_shift_count_0 :
    (Instr.shrw 0).wf = false ∧ (Instr.sarw 0).wf = false ∧ (Instr.shlw .ax 0).wf = false ∧ (Instr.shrw 15).wf = true := by
  decide +kernel
theorem test_wf_refuses_SHL_D_and_SHLW_HL : (Instr.shl .d 1).wf = false ∧ (Instr.shlw .hl 1).wf = false := by decide +kernel
theorem test_wf_refuses_bit_of_abs_but_for_SET1_CLR1 :
    (Instr.mov1Cy (.mem (.abs false 0)) 0).wf = false ∧ (Instr.bt (.mem (.abs false 0)) 0 0).wf = false ∧
      (Instr.set1 (.mem (.abs false 0)) 0).wf = true := by decide +kernel
theorem test_wf_refuses_SET1_CLR1_of_PSW7 :
    (Instr.set1 (.mem (.sfr 0xFA)) 7).wf = false ∧ (Instr.clr1 (.mem (.sfr 0xFA)) 7).wf = false := by decide +kernel
theorem test_wf_refuses_PREFIX_alone : Instr.prefixAlone.wf = false := by decide +kernel

/-! ### Decoding: words written out from the encoding tables -/

/-- Every listed byte string decodes to its instruction with its whole length. -/
def decodes (l : List (List Byte × Instr)) : Bool := l.all fun x => decide (decode x.1 = .ok (x.2, x.1.length))

theorem test_decode_MOV_XCH_ONEB_CLRB_MOVS : decodes
    [([0x51, 0x4D], .movRI .a 0x4D), ([0xCF, 0x00, 0xFE, 0x55], .movMI (.abs false 0xFE00) 0x55),
     ([0xCE, 0xFA, 0xC1], .movMI (.sfr 0xFA) 0xC1), ([0x11, 0x39, 0x34, 0x12, 0x56], .movMI (.wordBC true 0x1234) 0x56),
     ([0x66], .movAR .l), ([0x77], .movRA .h), ([0x09, 0x34, 0x12], .movAM (.wordB false 0x1234)),
     ([0x8E, 0xFD], .movAM (.sfr 0xFD)), ([0x11, 0x61, 0xE9], .movAM (.hlC true)), ([0x88, 0x04], .movAM (.spOff 4)),
     ([0x28, 0x34, 0x12], .movMA (.wordC false 0x1234)), ([0x9A, 0x07], .movMA (.deOff false 7)),
     ([0xE8, 0x30], .movRM .b (.saddr 0x30)), ([0x11, 0xF9, 0x34, 0x12], .movRM .c (.abs true 0x1234)),
     ([0x41, 0xF3], .movEsI 0xF3), ([0x61, 0xB8, 0x20], .movEsSaddr 0x20), ([0x08], .xchAR .x), ([0x61, 0x8E], .xchAR .l),
     ([0x61, 0xAF, 0x02], .xchAM (.deOff false 2)), ([0xE3], .onebR .b), ([0xE5, 0x34, 0x12], .onebM (.abs false 0x1234)),
     ([0xF0], .clrbR .x), ([0xF4, 0x20], .clrbM (.saddr 0x20)), ([0x61, 0xCE, 0x02], .movs false 2)] := by decide +kernel

theorem test_decode_MOVW_XCHW_ONEW_CLRW : decodes
    [([0x36, 0x20, 0xFE], .movwRI .hl 0xFE20), ([0xC9, 0x20, 0x34, 0x12], .movwMI (.saddr 0x20) 0x1234),
     ([0xCB, 0xF8, 0x20, 0xFE], .movwMI (.sfr 0xF8) 0xFE20), ([0x17], .movwAxR .hl), ([0x12], .movwRAx .bc),
     ([0xA8, 0x02], .movwAxM (.spOff 2)), ([0x11, 0x59, 0x34, 0x12], .movwAxM (.wordB true 0x1234)),
     ([0xB9], .movwMAx (.de false)), ([0x11, 0xBC, 0x02], .movwMAx (.hlOff true 2)),
     ([0xFB, 0xF8, 0xFF], .movwRM .hl (.abs false 0xFFF8)), ([0xDA, 0x20], .movwRM .bc (.saddr 0x20)), ([0x35], .xchw .de),
     ([0xE7], .onew .bc), ([0xF6], .clrw .ax)] := by decide +kernel

theorem test_decode_byte_operations : decodes
    [([0x0C, 0xC6], .add (.aImm 0xC6)), ([0x1A, 0x20, 0x01], .addc (.saddrImm 0x20 1)), ([0x61, 0x25], .sub (.regA .d)),
     ([0x61, 0x3A], .subc (.aReg .c)), ([0x5B, 0x20], .and (.aMem (.saddr 0x20))), ([0x11, 0x6D], .or (.aMem (.hl true))),
     ([0x61, 0x7E], .xor (.aReg .l)), ([0x61, 0xC2], .cmp (.aMem (.hlC false))),
     ([0x11, 0x40, 0x00, 0xFE, 0x02], .cmp (.absImm true 0xFE00 2)), ([0xD1], .cmp0R .a), ([0xD4, 0x20], .cmp0M (.saddr 0x20)),
     ([0x61, 0xDE, 0xF0], .cmps false 0xF0)] := by decide +kernel

theorem test_decode_word_operations_and_MULU : decodes
    [([0x03], .addw (.reg .bc)), ([0x26, 0x20], .subw (.mem (.saddr 0x20))), ([0x44, 0xCD, 0xAB], .cmpw (.imm 0xABCD)),
     ([0x11, 0x61, 0x49, 0x04], .cmpw (.mem (.hlOff true 4))), ([0x10, 0x12], .addwSp 0x12), ([0x20, 0x12], .subwSp 0x12),
     ([0xD6], .mulu)] := by decide +kernel

theorem test_decode_increment_shift_rotate : decodes
    [([0x83], .incR .b), ([0xA0, 0x34, 0x12], .incM (.abs false 0x1234)), ([0x97], .decR .h),
     ([0xB4, 0x92], .decM (.saddr 0x92)), ([0xA7], .incwR .hl), ([0x61, 0x79, 0x02], .incwM (.hlOff false 2)),
     ([0xB5], .decwR .de), ([0x11, 0xB2, 0x34, 0x12], .decwM (.abs true 0x1234)), ([0x31, 0x3A], .shr 3),
     ([0x31, 0xFE], .shrw 15), ([0x31, 0x47], .shl .c 4), ([0x31, 0x78], .shl .b 7), ([0x31, 0xFD], .shlw .ax 15),
     ([0x31, 0x3C], .shlw .bc 3), ([0x31, 0x4B], .sar 4), ([0x31, 0x4F], .sarw 4), ([0x61, 0xDB], .ror), ([0x61, 0xEB], .rol),
     ([0x61, 0xFB], .rorc), ([0x61, 0xDC], .rolc), ([0x61, 0xFE], .rolwc .bc)] := by decide +kernel

theorem test_decode_bit_instructions : decodes
    [([0x71, 0xFC], .mov1Cy .a 7), ([0x71, 0x41, 0x20], .mov1Bit (.mem (.saddr 0x20)) 4),
     ([0x71, 0x35, 0x7F], .and1 (.mem (.saddr 0x7F)) 3), ([0x71, 0xD6], .or1 (.mem (.hl false)) 5),
     ([0x71, 0x6F, 0xFA], .xor1 (.mem (.sfr 0xFA)) 6), ([0x71, 0x20, 0x55, 0xFE], .set1 (.mem (.abs false 0xFE55)) 2),
     ([0x11, 0x71, 0x83], .clr1 (.mem (.hl true)) 0), ([0x71, 0x80], .set1Cy), ([0x71, 0x88], .clr1Cy),
     ([0x71, 0xC0], .not1Cy)] := by decide +kernel

theorem test_decode_call_return_stack : decodes
    [([0x61, 0xFA], .callR .hl), ([0xFE, 0xFD, 0x0F], .callRel 0x0FFD), ([0xFD, 0x00, 0x20], .callAbs16 0x2000),
     ([0xFC, 0x00, 0xE0, 0x03], .callAbs20 0x3E000), ([0x61, 0x85], .callt 8), ([0x61, 0xCC], .brk), ([0xD7], .ret),
     ([0x61, 0xFC], .reti), ([0x61, 0xEC], .retb), ([0x61, 0xDD], .pushPsw), ([0xC5], .pushR .de), ([0x61, 0xCD], .popPsw),
     ([0xC6], .popR .hl)] := by decide +kernel

theorem test_decode_branch_skip : decodes
    [([0x61, 0xCB], .brAx), ([0xEF, 0xFE], .brRel8 0xFE), ([0xEE, 0xFD, 0x0F], .brRel16 0x0FFD),
     ([0xED, 0x00, 0x20], .brAbs16 0x2000), ([0xEC, 0x45, 0x23, 0xF1], .brAbs20 0x12345), ([0xDC, 0x7F], .bc 0x7F),
     ([0xDE, 0x04], .bnc 4), ([0xDD, 0x04], .bz 4), ([0xDF, 0xFB], .bnz 0xFB), ([0x61, 0xC3, 0x7F], .bh 0x7F),
     ([0x61, 0xD3, 0x05], .bnh 5), ([0x31, 0x32, 0x47, 0x10], .bt (.mem (.saddr 0x47)) 3 0x10),
     ([0x11, 0x31, 0xB5, 0x10], .bf (.mem (.hl true)) 3 0x10), ([0x31, 0x80, 0xFA, 0x7F], .btclr (.mem (.sfr 0xFA)) 0 0x7F),
     ([0x31, 0x71, 0x02], .btclr .a 7 2), ([0x61, 0xC8], .skc), ([0x61, 0xD8], .sknc), ([0x61, 0xE8], .skz),
     ([0x61, 0xF8], .sknz), ([0x61, 0xE3], .skh), ([0x61, 0xF3], .sknh)] := by decide +kernel

theorem test_decode_CPU_control : decodes
    [([0x61, 0xEF], .sel 2), ([0x00], .nop), ([0x71, 0x7A, 0xFA], .ei), ([0x71, 0x7B, 0xFA], .di), ([0x61, 0xED], .halt),
     ([0x61, 0xFD], .stop)] := by decide +kernel

/-- V18 to V29: bytes that are no assigned encoding. -/
theorem test_decode_refuses_unassigned :
    decode [0xFF] = .error (.unassignedMap1 0xFF) ∧ decode [0x21] = .error (.unassignedMap1 0x21) ∧
    decode [0x61, 0x19] = .error (.unassignedMap2 0x19) ∧ decode [0x71, 0x90] = .error (.unassignedMap3 0x90) ∧
    decode [0x31, 0x8A] = .error (.unassignedMap4 0x8A) ∧ decode [0x31, 0x16] = .error (.unassignedMap4 0x16) ∧
    decode [0x11, 0x8D, 0x20] = .ok (.prefixAlone, 1) ∧ decode [0x11, 0x11, 0x8B] = .ok (.prefixAlone, 1) := by decide +kernel

/-! ### Single steps: the vectors of `95_test_vectors.md` part 2, by their numbers -/

/-- The start state of a vector: PC = 00100H, SP = FE00H, all else as after reset (section 0). -/
def start : State := { State.reset with pc := 0x00100, sp := 0xFE00 }

/-- One step with the bytes at PC completes in a state with the property. -/
def after (bs : List Byte) (s : State) (p : State → Bool) : Bool :=
  match step { s with mem := placeBytes s.pc.toNat bs s.mem } with
  | .next t => p t
  | _ => false

/-- One step with the bytes at PC stops with the fault. -/
def stops (bs : List Byte) (s : State) (f : Fault) : Bool :=
  match step { s with mem := placeBytes s.pc.toNat bs s.mem } with
  | .fault g => decide (g = f)
  | _ => false

theorem test_MOV_V40 : after [0x51, 0x4D] start (fun t => t.r8 0 .a == 0x4D && t.pc == 0x00102 && t.psw == 0x06) := by decide +kernel
theorem test_MOV_V41 : after [0x60] (start.setR8 0 .x 0x12) (fun t => t.r8 0 .a == 0x12 && t.pc == 0x00101) := by decide +kernel
theorem test_MOV_V42 : after [0x77] (start.setR8 0 .a 0x80) (fun t => t.r8 0 .h == 0x80 && t.pc == 0x00101) := by decide +kernel
theorem test_MOV_V43 : after [0x9C, 0x02] ((start.setR8 0 .a 0x5A).setR16 0 .hl 0xFE00)
    (fun t => t.peek 0xFFE02 == some 0x5A && t.pc == 0x00102) := by decide +kernel
theorem test_MOV_V44 : after [0xE8, 0x30] (start.put 0xFFE30 0x77)
    (fun t => t.r8 0 .b == 0x77 && t.pc == 0x00102) := by decide +kernel
theorem test_MOV_V45 : after [0x09, 0x00, 0xFE] ((start.setR8 0 .b 0x05).put 0xFFE05 0x99)
    (fun t => t.r8 0 .a == 0x99 && t.pc == 0x00103) := by decide +kernel
theorem test_MOV_V48 : after [0x11, 0x8B] ((({ start with es := 0x01 }).setR16 0 .hl 0x1234).put 0x11234 0x80)
    (fun t => t.r8 0 .a == 0x80 && t.pc == 0x00102) := by decide +kernel
theorem test_XCH_V50 : after [0x08] ((start.setR8 0 .a 0x12).setR8 0 .x 0x34)
    (fun t => t.r8 0 .a == 0x34 && t.r8 0 .x == 0x12 && t.pc == 0x00101) := by decide +kernel
theorem test_XCH_V51 : after [0x61, 0xA8, 0xBC] ((start.setR8 0 .a 0x12).put 0xFFEBC 0x34)
    (fun t => t.peek 0xFFEBC == some 0x12 && t.r8 0 .a == 0x34 && t.pc == 0x00103) := by decide +kernel
theorem test_ONEB_V53 : after [0xE4, 0x20] start (fun t => t.peek 0xFFE20 == some 0x01 && t.pc == 0x00102) := by decide +kernel
theorem test_CLRB_V54 : after [0xF1] ({ start with psw := 0x06 }) (fun t => t.r8 0 .a == 0x00 && t.pc == 0x00101) := by decide +kernel
theorem test_MOVS_V55 : after [0x61, 0xCE, 0x02] (((start.setR16 0 .hl 0xFE00).setR8 0 .x 0x55).setR8 0 .a 0x00)
    (fun t => t.peek 0xFFE02 == some 0x55 && t.psw == 0x07 && t.pc == 0x00103) := by decide +kernel
theorem test_MOV_V58 : after [0xCE, 0xFA, 0xC1] ({ start with psw := 0x06 })
    (fun t => t.psw == 0xC1 && t.pc == 0x00103 && t.intInhibit) := by decide +kernel
theorem test_MOV_V61 : after [0x41, 0xF3] start (fun t => t.es == 0x03 && t.pc == 0x00102) := by decide +kernel
theorem test_MOV_V63 : after [0x61, 0xB8, 0x20] (start.put 0xFFE20 0x12)
    (fun t => t.es == 0x02 && t.pc == 0x00103) := by decide +kernel
theorem test_MOV_V67 : stops [0x9F, 0x00, 0x10] (start.setR8 0 .a 0x00) .writeToReadOnly := by
  decide +kernel
theorem test_MOV_V72 :
    after [0x11, 0x8C, 0x01] ((({ start with es := 0x01 }).setR16 0 .hl 0xFFFF).put 0x20000 0x5A)
    (fun t => t.r8 0 .a == 0x5A) := by decide +kernel
theorem test_MOV_V75 : stops [0x9E, 0xFB] (start.setR8 0 .a 0x00) .reservedWrite := by
  decide +kernel
theorem test_MOV_V77 : after [0x88, 0x04] (({ start with sp := 0xFE00 }).put 0xFFE04 0x66)
    (fun t => t.r8 0 .a == 0x66 && t.pc == 0x00102) := by decide +kernel
theorem test_MOVW_V90 : after [0x36, 0x20, 0xFE] start
    (fun t => t.r16 0 .hl == 0xFE20 && t.r8 0 .l == 0x20 && t.r8 0 .h == 0xFE && t.pc == 0x00103) := by decide +kernel
theorem test_MOVW_V91 : after [0xC9, 0x20, 0x34, 0x12] start
    (fun t => t.peek 0xFFE20 == some 0x34 && t.peek 0xFFE21 == some 0x12 && t.pc == 0x00104) := by decide +kernel
theorem test_MOVW_V92 : after [0xAD, 0x20] ((start.put 0xFFE20 0x34).put 0xFFE21 0x12)
    (fun t => t.r16 0 .ax == 0x1234 && t.r8 0 .x == 0x34 && t.r8 0 .a == 0x12 && t.pc == 0x00102) := by decide +kernel
theorem test_MOVW_V93 : after [0xAD, 0x21] ((start.put 0xFFE20 0x34).put 0xFFE21 0x12)
    (fun t => t.r16 0 .ax == 0x1234) := by decide +kernel
theorem test_MOVW_V95 : stops [0xAB] (start.setR16 0 .hl 0xFE01) .misalignedWord := by
  decide +kernel
theorem test_MOVW_V97 : after [0xB9] ((start.setR16 0 .ax 0xBEEF).setR16 0 .de 0xFD00)
    (fun t => t.peek 0xFFD00 == some 0xEF && t.peek 0xFFD01 == some 0xBE && t.pc == 0x00101) := by decide +kernel
theorem test_MOVW_V98 : after [0xFB, 0x00, 0x10] ((start.put 0x01000 0x78).put 0x01001 0x56)
    (fun t => t.r16 0 .hl == 0x5678) := by decide +kernel
theorem test_MOVW_V99 : after [0x17] (start.setR16 0 .hl 0x1234) (fun t => t.r16 0 .ax == 0x1234) := by decide +kernel
theorem test_XCHW_V100 : after [0x33] ((start.setR16 0 .ax 0x1122).setR16 0 .bc 0x3344)
    (fun t => t.r16 0 .ax == 0x3344 && t.r16 0 .bc == 0x1122) := by decide +kernel
theorem test_ONEW_V101 : after [0xE7] start
    (fun t => t.r16 0 .bc == 0x0001 && t.r8 0 .b == 0x00 && t.r8 0 .c == 0x01) := by decide +kernel
theorem test_CLRW_V102 : after [0xF6] start (fun t => t.r16 0 .ax == 0x0000) := by decide +kernel
theorem test_MOVW_V107 : after [0xBE, 0xFC] (start.setR16 0 .ax 0x0302) (fun t => t.cs == 0x02 && t.es == 0x03) := by decide +kernel
theorem test_ADD_V120 : after [0x0C, 0xC6] (start.setR8 0 .a 0x3A) (fun t => t.r8 0 .a == 0x00 && t.psw == 0x57) := by decide +kernel
theorem test_ADD_V125 : after [0x0A, 0x20, 0x10] (start.put 0xFFE20 0xF0)
    (fun t => t.peek 0xFFE20 == some 0x00 && t.psw == 0x47) := by decide +kernel
theorem test_ADDC_V126 : after [0x1C, 0x00] (({ start with psw := 0x07 }).setR8 0 .a 0xFF)
    (fun t => t.r8 0 .a == 0x00 && t.psw == 0x57) := by decide +kernel
theorem test_SUB_V129 : after [0x61, 0x25] ((start.setR8 0 .d 0x10).setR8 0 .a 0x01)
    (fun t => t.r8 0 .d == 0x0F && t.psw == 0x16) := by decide +kernel
theorem test_SUB_V130 : after [0x2C, 0x01] (start.setR8 0 .a 0x00) (fun t => t.r8 0 .a == 0xFF && t.psw == 0x17) := by decide +kernel
theorem test_SUBC_V133 :
    after [0x3D] (((({ start with psw := 0x07 }).setR8 0 .a 0x00).setR16 0 .hl 0xFE00).put 0xFFE00 0x00)
    (fun t => t.r8 0 .a == 0xFF && t.psw == 0x17) := by decide +kernel
theorem test_SUBC_V134 : after [0x3C, 0x0F] (({ start with psw := 0x07 }).setR8 0 .a 0x10)
    (fun t => t.r8 0 .a == 0x00 && t.psw == 0x56) := by decide +kernel
theorem test_AND_V135 : after [0x5A, 0xBA, 0xDC] (({ start with psw := 0x17 }).put 0xFFEBA 0xFF)
    (fun t => t.peek 0xFFEBA == some 0xDC && t.psw == 0x17) := by decide +kernel
theorem test_OR_V137 : after [0x6B, 0x98] ((start.setR8 0 .a 0x01).put 0xFFE98 0x80)
    (fun t => t.r8 0 .a == 0x81 && !pswZ t.psw) := by decide +kernel
theorem test_XOR_V138 : after [0x61, 0x7E] ((start.setR8 0 .a 0x5A).setR8 0 .l 0x5A)
    (fun t => t.r8 0 .a == 0x00 && t.psw == 0x46) := by decide +kernel
theorem test_CMP_V141 : after [0x4C, 0x55] (start.setR8 0 .a 0x54) (fun t => t.psw == 0x17) := by decide +kernel
theorem test_CMP_V144 : after [0x4A, 0x38, 0x38] (start.put 0xFFE38 0x38)
    (fun t => pswZ t.psw && !pswAC t.psw && !pswCY t.psw) := by decide +kernel
theorem test_CMP_V145 : after [0x40, 0x00, 0xFE, 0x02] (start.put 0xFFE00 0x01)
    (fun t => t.pc == 0x00104 && !pswZ t.psw && pswAC t.psw && pswCY t.psw) := by decide +kernel
theorem test_CMP0_V146 : after [0xD1] (({ start with psw := 0x17 }).setR8 0 .a 0x00) (fun t => t.psw == 0x46) := by decide +kernel
theorem test_CMPS_V149 :
    after [0x61, 0xDE, 0xF0] ((((start.setR8 0 .x 0x41).setR8 0 .a 0x05).setR16 0 .hl 0xFD12).put 0xFFE02 0x42)
    (fun t => t.psw == 0x17) := by decide +kernel
theorem test_CMPS_V150 :
    after [0x61, 0xDE, 0xF0] ((((start.setR8 0 .x 0x41).setR8 0 .a 0x00).setR16 0 .hl 0xFD12).put 0xFFE02 0x41)
    (fun t => t.psw == 0x47) := by decide +kernel
theorem test_ADDW_V160 : after [0x04, 0xCD, 0xAB] (start.setR16 0 .ax 0x5433)
    (fun t => t.r16 0 .ax == 0x0000 && t.pc == 0x00103) := by decide +kernel
theorem test_SUBW_V164 : after [0x24, 0xCD, 0xAB] (start.setR16 0 .ax 0xABCC) (fun t => t.r16 0 .ax == 0xFFFF) := by decide +kernel
theorem test_CMPW_V166 : after [0x44, 0xCD, 0xAB] (start.setR16 0 .ax 0xABCD) (fun t => t.r16 0 .ax == 0xABCD) := by decide +kernel
theorem test_CMPW_V167 :
    after [0x61, 0x49, 0x04] ((((start.setR16 0 .ax 0x0000).setR16 0 .hl 0xFE00).put 0xFFE04 0x01).put 0xFFE05 0x00)
    (fun t => t.pc == 0x00103) := by decide +kernel
theorem test_MULU_V169 : after [0xD6] ((start.setR8 0 .a 0xFF).setR8 0 .x 0xFF)
    (fun t => t.r16 0 .ax == 0xFE01 && t.r8 0 .a == 0xFE && t.r8 0 .x == 0x01) := by decide +kernel
theorem test_INC_V180 : after [0x83] (({ start with psw := 0x07 }).setR8 0 .b 0xFF)
    (fun t => t.r8 0 .b == 0x00 && t.psw == 0x57) := by decide +kernel
theorem test_INC_V183 : after [0xA4, 0x20] (start.put 0xFFE20 0xFF)
    (fun t => t.peek 0xFFE20 == some 0x00 && t.psw == 0x56) := by decide +kernel
theorem test_DEC_V185 : after [0xB4, 0x92] (start.put 0xFFE92 0x00)
    (fun t => t.peek 0xFFE92 == some 0xFF && t.psw == 0x16) := by decide +kernel
theorem test_DEC_V186 : after [0x93] (({ start with psw := 0x07 }).setR8 0 .b 0x01)
    (fun t => t.r8 0 .b == 0x00 && t.psw == 0x47) := by decide +kernel
theorem test_INCW_V188 : after [0xA7] (({ start with psw := 0x06 }).setR16 0 .hl 0xFFFF)
    (fun t => t.r16 0 .hl == 0x0000 && t.psw == 0x06) := by decide +kernel
theorem test_DECW_V189 : after [0xB5] (({ start with psw := 0x06 }).setR16 0 .de 0x0000)
    (fun t => t.r16 0 .de == 0xFFFF && t.psw == 0x06) := by decide +kernel
theorem test_INCW_V190 : after [0xA6, 0x20] ((start.put 0xFFE20 0xFF).put 0xFFE21 0x00)
    (fun t => t.peek 0xFFE20 == some 0x00 && t.peek 0xFFE21 == some 0x01) := by decide +kernel
theorem test_SHR_V191 : after [0x31, 0x3A] (start.setR8 0 .a 0xF5) (fun t => t.r8 0 .a == 0x1E && t.psw == 0x07) := by decide +kernel
theorem test_SHRW_V194 : after [0x31, 0x3E] (start.setR16 0 .ax 0xAAF5)
    (fun t => t.r16 0 .ax == 0x155E && pswCY t.psw) := by decide +kernel
theorem test_SHL_V197 : after [0x31, 0x39] (start.setR8 0 .a 0x5D) (fun t => t.r8 0 .a == 0xE8 && !pswCY t.psw) := by decide +kernel
theorem test_SHLW_V201 : after [0x31, 0x3C] (start.setR16 0 .bc 0xC35D)
    (fun t => t.r16 0 .bc == 0x1AE8 && !pswCY t.psw) := by decide +kernel
theorem test_SAR_V203 : after [0x31, 0x4B] (start.setR8 0 .a 0x8C) (fun t => t.r8 0 .a == 0xF8 && pswCY t.psw) := by decide +kernel
theorem test_SARW_V206 : after [0x31, 0x4F] (start.setR16 0 .ax 0xA28C)
    (fun t => t.r16 0 .ax == 0xFA28 && pswCY t.psw) := by decide +kernel
theorem test_ROR_V209 : after [0x61, 0xDB] (start.setR8 0 .a 0x01) (fun t => t.r8 0 .a == 0x80 && pswCY t.psw) := by decide +kernel
theorem test_ROL_V211 : after [0x61, 0xEB] (start.setR8 0 .a 0x81) (fun t => t.r8 0 .a == 0x03 && pswCY t.psw) := by decide +kernel
theorem test_RORC_V212 : after [0x61, 0xFB] (start.setR8 0 .a 0x01) (fun t => t.r8 0 .a == 0x00 && pswCY t.psw) := by decide +kernel
theorem test_ROLC_V214 : after [0x61, 0xDC] (({ start with psw := 0x07 }).setR8 0 .a 0x80)
    (fun t => t.r8 0 .a == 0x01 && pswCY t.psw) := by decide +kernel
theorem test_ROLWC_V216 : after [0x61, 0xFE] (start.setR16 0 .bc 0x8000)
    (fun t => t.r16 0 .bc == 0x0000 && pswCY t.psw) := by decide +kernel
theorem test_MOV1_V230 : after [0x71, 0xFC] (start.setR8 0 .a 0x80) (fun t => t.psw == 0x07 && t.pc == 0x00102) := by decide +kernel
theorem test_MOV1_V231 : after [0x71, 0x41, 0x20] (({ start with psw := 0x07 }).put 0xFFE20 0x00)
    (fun t => t.peek 0xFFE20 == some 0x10 && t.pc == 0x00103) := by decide +kernel
theorem test_MOV1_V233 : after [0x71, 0x49, 0xFA] ({ start with psw := 0x07 })
    (fun t => t.psw == 0x17 && t.intInhibit) := by decide +kernel
theorem test_AND1_V234 : after [0x71, 0x35, 0x7F] (({ start with psw := 0x07 }).put 0xFFE7F 0x08)
    (fun t => pswCY t.psw) := by decide +kernel
theorem test_OR1_V236 : after [0x71, 0xD6] ((start.setR16 0 .hl 0xFE00).put 0xFFE00 0x20) (fun t => pswCY t.psw) := by decide +kernel
theorem test_XOR1_V237 : after [0x71, 0xFF] (({ start with psw := 0x07 }).setR8 0 .a 0x80)
    (fun t => !pswCY t.psw) := by decide +kernel
theorem test_SET1_V239 : after [0x71, 0x12, 0x55] (start.put 0xFFE55 0x00) (fun t => t.peek 0xFFE55 == some 0x02) := by decide +kernel
theorem test_CLR1_V242 : after [0x11, 0x71, 0x28, 0x55, 0xFE] (({ start with es := 0x0F }).put 0xFFE55 0x04)
    (fun t => t.peek 0xFFE55 == some 0x00 && t.pc == 0x00105) := by decide +kernel
theorem test_SET1_V245 : after [0x71, 0x3A, 0xFA] ({ start with psw := 0x06 })
    (fun t => t.psw == 0x0E && t.intInhibit) := by decide +kernel
theorem test_SET1_V247 : after [0x71, 0x70, 0xFA, 0xFF] ({ start with psw := 0x06 })
    (fun t => t.psw == 0x86 && !t.intInhibit) := by decide +kernel
theorem test_SET1_V248 : after [0x71, 0x80] ({ start with psw := 0x06 })
    (fun t => t.psw == 0x07 && !t.intInhibit) := by decide +kernel
theorem test_CLR1_V249 : after [0x71, 0x88] ({ start with psw := 0x07 }) (fun t => t.psw == 0x06) := by decide +kernel
theorem test_NOT1_V250 : after [0x71, 0xC0] ({ start with psw := 0x07 }) (fun t => t.psw == 0x06) := by decide +kernel
theorem test_CALL_V260 : after [0x61, 0xFA] (({ start with cs := 0x01, pc := 0x00500 }).setR16 0 .hl 0x2340)
    (fun t => t.peek 0xFFDFF == some 0x00 && t.peek 0xFFDFE == some 0x00 && t.peek 0xFFDFD == some 0x05
      && t.peek 0xFFDFC == some 0x02 && t.sp == 0xFDFC && t.pc == 0x12340) := by decide +kernel
theorem test_CALL_V261 : after [0xFE, 0xFD, 0x0F] ({ start with pc := 0x01000 })
    (fun t => t.peek 0xFFDFF == some 0x00 && t.peek 0xFFDFE == some 0x00 && t.peek 0xFFDFD == some 0x10
      && t.peek 0xFFDFC == some 0x03 && t.sp == 0xFDFC && t.pc == 0x02000) := by decide +kernel
theorem test_CALL_V262 : after [0xFD, 0x00, 0x20] ({ start with pc := 0x00100 })
    (fun t => t.peek 0xFFDFF == some 0x00 && t.peek 0xFFDFE == some 0x00 && t.peek 0xFFDFD == some 0x01
      && t.peek 0xFFDFC == some 0x03 && t.sp == 0xFDFC && t.pc == 0x02000) := by decide +kernel
theorem test_CALL_V263 : after [0xFC, 0x00, 0xE0, 0x03] ({ start with pc := 0x12345 })
    (fun t => t.peek 0xFFDFF == some 0x00 && t.peek 0xFFDFE == some 0x01 && t.peek 0xFFDFD == some 0x23
      && t.peek 0xFFDFC == some 0x49 && t.sp == 0xFDFC && t.pc == 0x3E000) := by decide +kernel
theorem test_CALLT_V264 : after [0x61, 0x84] ((({ start with pc := 0x00100 }).put 0x00080 0x34).put 0x00081 0x12)
    (fun t => t.peek 0xFFDFF == some 0x00 && t.peek 0xFFDFE == some 0x00 && t.peek 0xFFDFD == some 0x01
      && t.peek 0xFFDFC == some 0x02 && t.sp == 0xFDFC && t.pc == 0x01234) := by decide +kernel
theorem test_RET_V266 :
    after [0xD7] ((((({ start with sp := 0xFDFC }).put 0xFFDFC 0x02).put 0xFFDFD 0x05).put 0xFFDFE 0x00).put 0xFFDFF 0x00)
    (fun t => t.pc == 0x00502 && t.sp == 0xFE00) := by decide +kernel
theorem test_BRK_V268 :
    after [0x61, 0xCC] ((({ start with psw := 0x86, pc := 0x00200 }).put 0x0007E 0x00).put 0x0007F 0x30)
    (fun t => t.peek 0xFFDFF == some 0x86 && t.peek 0xFFDFE == some 0x00 && t.peek 0xFFDFD == some 0x02
      && t.peek 0xFFDFC == some 0x02 && t.sp == 0xFDFC && t.psw == 0x06 && t.pc == 0x03000 && !t.intInhibit) := by decide +kernel
theorem test_PUSH_V271 : after [0xC1] (start.setR16 0 .ax 0x1234)
    (fun t => t.peek 0xFFDFF == some 0x12 && t.peek 0xFFDFE == some 0x34 && t.sp == 0xFDFE && t.pc == 0x00101) := by decide +kernel
theorem test_POP_V272 : after [0xC6] ((({ start with sp := 0xFDFE }).put 0xFFDFE 0x34).put 0xFFDFF 0x12)
    (fun t => t.r16 0 .hl == 0x1234 && t.sp == 0xFE00) := by decide +kernel
theorem test_PUSH_V273 : after [0x61, 0xDD] ({ start with psw := 0x57 })
    (fun t => t.peek 0xFFDFF == some 0x57 && t.peek 0xFFDFE == some 0x00 && t.sp == 0xFDFE && !t.intInhibit) := by decide +kernel
theorem test_POP_V274 : after [0x61, 0xCD] (({ start with sp := 0xFDFE, psw := 0x06 }).put 0xFFDFF 0x86)
    (fun t => t.psw == 0x86 && t.sp == 0xFE00 && t.intInhibit) := by decide +kernel
theorem test_ADDW_V276 : after [0x10, 0x12] ({ start with sp := 0xFE00 }) (fun t => t.sp == 0xFE12) := by decide +kernel
theorem test_ADDW_V277 : after [0x10, 0x03] ({ start with sp := 0xFE00 }) (fun t => t.sp == 0xFE02) := by decide +kernel
theorem test_SUBW_V278 : after [0x20, 0x12] ({ start with sp := 0xFE12 }) (fun t => t.sp == 0xFE00) := by decide +kernel
theorem test_PUSH_V281 : stops [0xC1] (({ start with sp := 0x8700 }).setR16 0 .ax 0x0000) .stackOutsideRam := by
  decide +kernel
theorem test_PUSH_V283 : after [0xC1] (({ start with sp := 0xFEE0 }).setR16 0 .ax 0x1234)
    (fun t => t.peek 0xFFEDF == some 0x12 && t.peek 0xFFEDE == some 0x34 && t.sp == 0xFEDE) := by decide +kernel
theorem test_BR_V300 : after [0x61, 0xCB] (({ start with cs := 0x02 }).setR16 0 .ax 0x1000)
    (fun t => t.pc == 0x21000) := by decide +kernel
theorem test_BR_V303 : after [0xEF, 0x80] ({ start with pc := 0x00100 }) (fun t => t.pc == 0x00082) := by decide +kernel
theorem test_BR_V305 : after [0xEE, 0xFD, 0xEF] ({ start with pc := 0x02000 }) (fun t => t.pc == 0x01000) := by decide +kernel
theorem test_BR_V306 : after [0xED, 0x00, 0x20] start (fun t => t.pc == 0x02000) := by decide +kernel
theorem test_BR_V307 : after [0xEC, 0x45, 0x23, 0x01] start (fun t => t.pc == 0x12345) := by decide +kernel
theorem test_BC_V308 : after [0xDC, 0x7F] ({ start with pc := 0x0027F, psw := 0x07 }) (fun t => t.pc == 0x00300) := by decide +kernel
theorem test_BNC_V311 : after [0xDE, 0x04] start (fun t => t.pc == 0x00106) := by decide +kernel
theorem test_BZ_V312 : after [0xDD, 0x04] ({ start with psw := 0x46 }) (fun t => t.pc == 0x00106) := by decide +kernel
theorem test_BNZ_V313 : after [0xDF, 0x04] ({ start with psw := 0x46 }) (fun t => t.pc == 0x00102) := by decide +kernel
theorem test_BH_V314 : after [0x61, 0xC3, 0x7F] ({ start with pc := 0x002D4 }) (fun t => t.pc == 0x00356) := by decide +kernel
theorem test_BNH_V316 : after [0x61, 0xD3, 0x05] ({ start with psw := 0x07 }) (fun t => t.pc == 0x00108) := by decide +kernel
theorem test_BT_V317 : after [0x31, 0x32, 0x47, 0x7F] (({ start with pc := 0x004D9 }).put 0xFFE47 0x08)
    (fun t => t.pc == 0x0055C) := by decide +kernel
theorem test_BF_V320 : after [0x31, 0x05, 0x02] (start.setR8 0 .a 0x01) (fun t => t.pc == 0x00103) := by decide +kernel
theorem test_BF_V321 :
    after [0x11, 0x31, 0xB5, 0x10] ((({ start with es := 0x0F }).setR16 0 .hl 0xFE00).put 0xFFE00 0x00)
    (fun t => t.pc == 0x00114) := by decide +kernel
theorem test_BTCLR_V322 : after [0x31, 0x80, 0xFA, 0x7F] ({ start with pc := 0x002D3, psw := 0x07 })
    (fun t => t.psw == 0x06 && t.pc == 0x00356 && t.intInhibit) := by decide +kernel
theorem test_BTCLR_V323 : after [0x31, 0x80, 0xFA, 0x7F] ({ start with psw := 0x06 })
    (fun t => t.pc == 0x00104 && t.intInhibit) := by decide +kernel
theorem test_BTCLR_V324 : after [0x31, 0x70, 0x20, 0x04] (start.put 0xFFE20 0xFF)
    (fun t => t.peek 0xFFE20 == some 0x7F && t.pc == 0x00108) := by decide +kernel
theorem test_SKC_V327 : after [0x61, 0xC8, 0x0C, 0x55] (({ start with psw := 0x07 }).setR8 0 .a 0x55)
    (fun t => t.pc == 0x00104 && t.r8 0 .a == 0x55 && !t.intInhibit) := by decide +kernel
theorem test_SKC_V328 : after [0x61, 0xC8, 0x11, 0xCF, 0x00, 0x10, 0x55] ({ start with psw := 0x07 })
    (fun t => t.pc == 0x00107) := by decide +kernel
theorem test_SKC_V329 : stops [0x61, 0xC8, 0xFF] ({ start with psw := 0x07 }) .illegalEncoding := by
  decide +kernel
theorem test_SKH_V331 : after [0x61, 0xE3, 0xFC, 0x00, 0xE0, 0x03] start (fun t => t.pc == 0x00106) := by decide +kernel
theorem test_SKNH_V332 : after [0x61, 0xF3, 0xFC, 0x00, 0xE0, 0x03] ({ start with psw := 0x46 })
    (fun t => t.pc == 0x00106) := by decide +kernel
theorem test_SKNC_V333 : after [0x61, 0xD8, 0x61, 0xC8, 0x00] start (fun t => t.pc == 0x00104) := by decide +kernel
theorem test_SEL_V350 : after [0x61, 0xEF] ({ start with psw := 0x06 }) (fun t => t.psw == 0x26) := by decide +kernel
theorem test_EI_V352 : after [0x71, 0x7A, 0xFA] ({ start with psw := 0x06 })
    (fun t => t.psw == 0x86 && t.pc == 0x00103 && t.intInhibit) := by decide +kernel
theorem test_DI_V353 : after [0x71, 0x7B, 0xFA] ({ start with psw := 0x86 })
    (fun t => t.psw == 0x06 && t.intInhibit) := by decide +kernel
theorem test_NOP_V354 : after [0x00] ({ start with intInhibit := true })
    (fun t => t.pc == 0x00101 && !t.intInhibit) := by decide +kernel
theorem test_HALT_V355 : after [0x61, 0xED] start (fun t => t.pc == 0x00102 && t.mode == .halt) := by decide +kernel
theorem test_STOP_V356 : after [0x61, 0xFD] start (fun t => t.pc == 0x00102 && t.mode == .stop) := by decide +kernel
theorem test_MOV_V366 : after [0xCE, 0xFE, 0x01] start
    (fun t => t.pmc == 0x01 && t.pc == 0x00103 && t.pmcWritten && t.pmcSettle) := by decide +kernel
theorem test_MOV_V370 : stops [0x9F, 0x05, 0x90] (({ start with pc := 0xF9000 }).setR8 0 .a 0x00) .staleFetch := by
  decide +kernel
/-- Z and CY of V160, V164, V166, V167, whatever the unconstrained bit is. -/
theorem test_word_flags : ∀ ac : Bool,
    (pswZ (flags16 0x06 (add16 0x5433 0xABCD) ac) = true ∧ pswCY (flags16 0x06 (add16 0x5433 0xABCD) ac) = true) ∧
    (pswZ (flags16 0x06 (sub16 0xABCC 0xABCD) ac) = false ∧ pswCY (flags16 0x06 (sub16 0xABCC 0xABCD) ac) = true) ∧
    (pswZ (flags16 0x06 (sub16 0xABCD 0xABCD) ac) = true ∧ pswCY (flags16 0x06 (sub16 0xABCD 0xABCD) ac) = false) ∧
    (pswZ (flags16 0x06 (sub16 0x0000 0x0001) ac) = false ∧ pswCY (flags16 0x06 (sub16 0x0000 0x0001) ac) = true) := by
  decide +kernel
/-- E102, E103: `SKZ` and `SKNZ` over `ADD A, #55H`. -/
theorem test_SKZ_skips_when_Z : after [0x61, 0xE8, 0x0C, 0x55] { start with psw := 0x46 }
    (fun t => t.pc == 0x00104 && !t.intInhibit) := by decide +kernel
theorem test_SKNZ_does_not_skip_when_Z : after [0x61, 0xF8, 0x0C, 0x55] { start with psw := 0x46 }
    (fun t => t.pc == 0x00102 && t.intInhibit) := by decide +kernel
/-- V26: PREFIX before NOP. -/
theorem test_PREFIX_before_NOP : stops [0x11, 0x00] start .illegalEncoding := by decide +kernel
/-- R356: PREFIX before `MOV A, saddr`, whose operand byte cannot be fetched, and before an opcode byte that cannot be. -/
theorem test_PREFIX_before_opcode_without_ES_form : stops [0x11, 0x8D] start .illegalEncoding ∧
    stops [0x11, 0x61, 0xA8] start .illegalEncoding ∧ stops [0x11, 0x8F] start .undefinedRead ∧
    stops [0x11] start .undefinedRead ∧ stops [0x11, 0x61] start .undefinedRead := by decide +kernel
/-- The frame of V268 on the stack. -/
def brkFrame : State :=
  (((({ start with sp := 0xFDFC, pc := 0x03000 }.put 0xFFDFC 0x02).put 0xFFDFD 0x02).put 0xFFDFE 0x00).put 0xFFDFF 0x86)
/-- V269, V270. -/
theorem test_RETB_V269 : after [0x61, 0xEC] brkFrame
    (fun t => t.psw == 0x86 && t.pc == 0x00202 && t.sp == 0xFE00 && t.intInhibit) := by decide +kernel
theorem test_RETI_V270 : after [0x61, 0xFC] brkFrame
    (fun t => t.psw == 0x86 && t.pc == 0x00202 && t.sp == 0xFE00 && t.intInhibit) := by decide +kernel
/-- V367: a mirror read right after the PMC write. -/
theorem test_mirror_too_early_V367 :
    stops [0x8F, 0x00, 0x10] { start with pmc := 0x01, pmcWritten := true, pmcSettle := true } .mirrorTooEarly := by
  decide +kernel
/-- V357: acceptance of a maskable request of level 2 with the vector 0000CH, that of source 4 of product T. -/
def irq : Request := { src := 4, level := 2, delay := 0, latency := 0 }
theorem test_acceptance_V357 :
    after [0x00] ((({ start with pc := 0x0010A, psw := 0x86, pending := [irq] }.put 0x0000C 0x00).put 0x0000D 0x05))
      (fun t => t.pc == 0x00500 && t.psw == 0x02 && t.sp == 0xFDFC && t.peek 0xFFDFF == some 0x86 &&
        t.peek 0xFFDFE == some 0x00 && t.peek 0xFFDFD == some 0x01 && t.peek 0xFFDFC == some 0x0A &&
        t.pending == [] && t.hostOut == [.accept irq]) := by decide +kernel
/-- V359: level 3 with ISP = 2 waits. -/
theorem test_low_priority_waits_V359 : after [0x00] { start with psw := 0x84, pending := [{ irq with level := 3 }] }
    (fun t => t.pc == 0x00101 && t.pending == [{ irq with level := 3 }]) := by decide +kernel
/-- V362: a non-maskable request with IE = 0. -/
theorem test_nonmaskable_V362 :
    after [0x00] (({ start with pc := 0x0010A, pending := [{ src := 0, level := 0, delay := 0, latency := 0 }] }.put
      0x00004 0x00).put 0x00005 0x06)
      (fun t => t.pc == 0x00600 && t.psw == 0x06 && t.sp == 0xFDFC && t.peek 0xFFDFF == some 0x06) := by decide +kernel
/-- A request that the CPU passes by at one boundary (R366) waits one instruction longer; a number that names no source is no
request. -/
theorem test_request_passed_by_once :
    after [0x00] { start with psw := 0x86, pending := [{ irq with latency := 1 }] }
      (fun t => t.pc == 0x00101 && t.pending == [irq]) ∧
    after [0x00] { start with psw := 0x86, pending := [{ irq with src := 61 }] }
      (fun t => t.pc == 0x00101 && t.hostOut == []) := by decide +kernel
/-- V364: HALT with IE = 0 and a maskable request. -/
theorem test_wake_without_entry_V364 :
    after [0x00] { start with pc := 0x00102, mode := .halt, pending := [irq] }
      (fun t => t.mode == .run && t.pc == 0x00102) := by decide +kernel
/-- V365: the reset event. -/
theorem test_reset_V365 :
    after [0x00] (({ start with resets := [0, 3], psw := 0x87, es := 0x01, mode := .stop }.put 0x00000 0x00).put
      0x00001 0x01) (fun t => t.psw == 0x06 && t.es == 0x0F && t.cs == 0x00 && t.pmc == 0x00 && t.mode == .run &&
        t.pc == 0x00100 && t.resets == [3]) := by decide +kernel
/-- R374: a reset that arrives later, while instructions run. -/
theorem test_reset_arrives_later : after [0x00] { start with resets := [1] }
    (fun t => t.pc == 0x00101 && t.resetNow) ∧ after [0x00] { start with resets := [2] } (fun t => !t.resetNow) := by
  decide +kernel
/-- V47, V368: the mirror reads flash at `MAA << 16`. -/
theorem test_mirror_of_bank_1_V368 :
    after [0x8F, 0x00, 0x10] ({ start with pmc := 0x01, pmcWritten := true }.put 0x11000 0x9A)
      (fun t => t.r8 0 .a == 0x9A) := by decide +kernel
/-- V251 with a device that answers: a bit write to an SFR is one device read and one device write of the whole byte. -/
theorem test_SET1_sfr_with_device_V251 :
    after [0x71, 0x0A, 0x00] { start with devIn := [.value 0x40, .value 0] }
      (fun t => t.devIn == [] && t.hostOut == [.devWrite 0xFFF00 1 0x41, .devRead 0xFFF00 1]) := by decide +kernel
theorem test_SET1_sfr_without_device_V251 : stops [0x71, 0x0A, 0x00] start .deviceRefused := by decide +kernel
/-- After reset with nothing placed there is no instruction to fetch (log 3). -/
theorem test_step_from_reset_stops : stops [] State.reset .undefinedRead := by decide +kernel
/-- The host's question: a word placed at the next fetch runs as the first instruction after reset. -/
theorem test_withFetchWord_runs : (match step (State.reset.withFetchWord 16 0x4D51) with
    | .next t => t.r8 0 .a == 0x4D && t.pc == 0x00002
    | _ => false) = true := by decide +kernel

/-! ### Witnesses: for every obligation with hypotheses, a state and operands that meet them -/

theorem exists_next {o : Host.Outcome State Fault Refusal}
    (h : (match o with | .next _ => true | _ => false) = true) : ∃ t, o = .next t := by
  cases o with
  | next t => exact ⟨t, rfl⟩
  | fault _ => cases h
  | refused _ => cases h

theorem exists_next_with {o : Host.Outcome State Fault Refusal} {p : State → Bool}
    (h : (match o with | .next t => p t | _ => false) = true) : ∃ t, o = .next t ∧ p t = true := by
  cases o with
  | next t => exact ⟨t, rfl, h⟩
  | fault _ => cases h
  | refused _ => cases h

/-- A state in the middle of a run on product T: PC in flash, bank 0 with AX = 1234H, BC = 0102H, DE = FD00H, HL = FE20H. -/
def w : State :=
  { (((State.reset.setR16 0 .ax 0x1234).setR16 0 .bc 0x0102).setR16 0 .de 0xFD00).setR16 0 .hl 0xFE20 with
    pc := 0x01000, sp := 0xFE00, cs := 0x01
    mem := [(0x00000, 0x00), (0x00001, 0x01), (0x0000C, 0x00), (0x0000D, 0x05), (0x0007E, 0x00), (0x0007F, 0x30),
      (0x00080, 0x34), (0x00081, 0x12), (0x000BE, 0x00), (0x000BF, 0x40), (0x01000, 0x00), (0x01002, 0x00),
      (0xFFE00, 0x45), (0xFFE01, 0x23), (0xFFE02, 0x01), (0xFFE03, 0x86), (0xFFE20, 0x88), (0xFFE21, 0x77)] }

theorem w_inv : w.Inv :=
  ⟨by decide +kernel, by decide +kernel, by decide +kernel, by decide +kernel, by decide +kernel, by decide +kernel,
    by decide +kernel, by decide +kernel⟩

/-- A byte of RAM is read and written. -/
theorem w_reads : ByteRead w 0xFFE20 0x88 w := read8_iff.mp (by decide +kernel)
theorem w_writes (v : Byte) : ByteWritten w 0xFFE20 v { w with mem := memWrite 0xFFE20 v w.mem } := .ram (by decide +kernel)
theorem w_reads_word : WordRead w 0xFFE20 0x7788 w := read16_iff.mp (by decide +kernel)
theorem ram_word_written {s : State} {a : Nat} {v : Word} (notDev : devWord s.product a = false)
    (low : region s.product a = .ram) (high : region s.product (a + 1) = .ram) :
    WordWritten s a v { s with mem := memWrite (a + 1) (hi8 v) (memWrite a (lo8 v) s.mem) } :=
  .bytes { s with mem := memWrite a (lo8 v) s.mem } _ notDev (.ram low) (.ram high)
theorem w_writes_word (v : Word) : ∃ t, WordWritten w 0xFFE20 v t :=
  ⟨_, ram_word_written (by decide +kernel) (by decide +kernel) (by decide +kernel)⟩

theorem witness_DecodeInvertsEncode : Instr.nop.wf = true ∧ (Instr.movMI (.abs true 0xFFFF) 0xFF).wf = true ∧
    (Instr.sarw 15).wf = true ∧ (Instr.callAbs20 0xFFFFF).wf = true := by decide +kernel
theorem witness_DecodeAnswersWellFormed : decode [0x00] = .ok (.nop, 1) ∧ decode [0x11, 0x00] = .ok (.prefixAlone, 1) ∧
    decode [0x11, 0x61, 0xAA, 0x34, 0x12] = .ok (.xchAM (.abs true 0x1234), 5) := by decide +kernel
theorem witness_PrefixAloneIsIllegal :
    (decodePlain [0x00] = .ok (.nop, 1) ∧ Instr.nop.withEs = none) ∧
    (decodePlain [0x8B] = .ok (.movAM (.hl false), 1) ∧
      (Instr.movAM (.hl false)).withEs = some (.movAM (.hl true))) ∧
    ((w.put 0x01000 0x11).put 0x01001 0x00).resetNow = false ∧ ((w.put 0x01000 0x11).put 0x01001 0x00).mode = .run ∧
    pickRequest ((w.put 0x01000 0x11).put 0x01001 0x00) [] = none ∧
    fetchAt ((w.put 0x01000 0x11).put 0x01001 0x00) 0x01000 = .ok (.prefixAlone, 1) ∧
    (decodePlain [0x8D] = .error .truncated ∧ opcodeWithoutEs [0x8D] = true) ∧
    (decodePlain [0xFF] = .error (.unassignedMap1 0xFF) ∧ decodePlain [0x61, 0x19] = .error (.unassignedMap2 0x19)) := by
  decide +kernel
theorem witness_StepRunsDecodedInstruction : w.resetNow = false ∧ w.mode = .run ∧ pickRequest w w.pending = none ∧
    fetchAt w w.pc.toNat = .ok (.nop, 1) := by decide +kernel
theorem witness_StepRunsStoredBytes : Instr.nop.wf = true ∧ w.resetNow = false ∧ w.mode = .run ∧
    pickRequest w w.pending = none ∧
    (∀ k, k < Instr.nop.size → fetchRegion w.product (w.pc.toNat + k) = some .flash ∧
      memRead (w.pc.toNat + k) w.mem = (encode .nop)[k]?) := by
  refine ⟨by decide +kernel, by decide +kernel, by decide +kernel, by decide +kernel, fun k hk => ?_⟩
  obtain rfl : k = 0 := by have : Instr.nop.size = 1 := rfl; omega
  decide +kernel
theorem witness_StepKeepsInvariant : w.Inv ∧ ∃ t, step w = .next t := ⟨w_inv, exists_next (by decide +kernel)⟩
theorem witness_OnlyTheFootprintChanges : w.Inv ∧ w.product.ok = true ∧ (∃ t, exec (.pushR .hl) w = .next t) ∧
    (0xFFDFD ∉ footprint (.pushR .hl) w ∧ 0xFFE00 ∉ footprint (.pushR .hl) w ∧ 0x0007E ∉ footprint (.pushR .hl) w) ∧
    region w.product 0xFFDFD ≠ .mirror :=
  ⟨w_inv, by decide +kernel, exists_next (by decide +kernel), by decide +kernel, by decide +kernel⟩
theorem witness_OnlyTheFootprintChanges_mirror : (∃ t, exec .nop w = .next t ∧ decide (t.pmc = w.pmc) = true) ∧
    region w.product 0xF2000 = .mirror ∧ 0xF2000 ∉ footprint .nop w :=
  ⟨exists_next_with (by decide +kernel), by decide +kernel, by decide +kernel⟩
theorem witness_OnlyTheNamedFlagsChange : ∃ t, exec (.cmp (.aImm 0x12)) w = .next t := exists_next (by decide +kernel)
theorem witness_HiddenStateFrame : (∃ t, exec .halt w = .next t) ∧ (∃ t, exec (.addw (.imm 1)) w = .next t) ∧
    (∃ t, exec .nop { w with pmcWritten := true } = .next t) :=
  ⟨exists_next (by decide +kernel), exists_next (by decide +kernel), exists_next (by decide +kernel)⟩
theorem witness_IntInhibitLatch : (∃ t, exec .ei w = .next t) ∧ isSkip .ei = false ∧ (∃ t, exec .nop w = .next t) :=
  ⟨exists_next (by decide +kernel), by decide +kernel, exists_next (by decide +kernel)⟩
theorem witness_FlashNeverChanges : (∃ t, step w = .next t) ∧ region w.product 0x00000 = .flash ∧
    region w.product 0x7FFFF = .flash := ⟨exists_next (by decide +kernel), by decide +kernel, by decide +kernel⟩
theorem witness_ByteRegisterTransfers : flows (.movRI .h 0xFF) w ∧ flows (.movAR .x) w ∧ flows (.movRA .h) w ∧
    flows (.onebR .a) w ∧ flows (.clrbR .b) w ∧ flows (.xchAR .x) w ∧ flows (.xchAR .h) w ∧ flows (.movEsI 0xFF) w := by
  decide +kernel
theorem witness_ByteLoads : byteAddr w (.saddr 0x20) = .ok 0xFFE20 ∧ ByteRead w 0xFFE20 0x88 w ∧
    flows (.movAM (.saddr 0x20)) w ∧ flows (.movRM .x (.saddr 0x20)) w ∧ saddrAddr 0x20 = 0xFFE20 ∧
    flows (.movEsSaddr 0x20) w :=
  ⟨by decide +kernel, w_reads, by decide +kernel, by decide +kernel, by decide +kernel, by decide +kernel⟩
/-- The other kinds of byte: a device register, the mirror, a CPU register, a general register. -/
theorem witness_ByteLoads_kinds :
    (byteAddr w (.sfr 0x00) = .ok 0xFFF00 ∧ ∃ t, ByteRead { w with devIn := [.value 0x5A] } 0xFFF00 0x5A t) ∧
    (byteAddr w (.abs false 0x1000) = .ok 0xF1000 ∧ ByteRead w 0xF1000 0x00 w) ∧
    (byteAddr w (.sfr 0xFD) = .ok 0xFFFFD ∧ ByteRead w 0xFFFFD 0x0F w) ∧
    (byteAddr w (.saddr 0xF9) = .ok 0xFFEF9 ∧ ByteRead w 0xFFEF9 0x12 w) :=
  ⟨⟨by decide +kernel, _, .device 0x5A [] (by decide +kernel) rfl rfl⟩, ⟨by decide +kernel, read8_iff.mp (by decide +kernel)⟩,
    ⟨by decide +kernel, read8_iff.mp (by decide +kernel)⟩, ⟨by decide +kernel, read8_iff.mp (by decide +kernel)⟩⟩
theorem witness_ByteStores : byteAddr w (.saddr 0x20) = .ok 0xFFE20 ∧ fresh (.movMI (.saddr 0x20) 0x55) w [0xFFE20] ∧
    (∀ v, ∃ t, ByteWritten w 0xFFE20 v t) ∧ flows (.movMI (.saddr 0x20) 0x55) w ∧
    (fresh (.movMA (.saddr 0x20)) w [0xFFE20] ∧ flows (.movMA (.saddr 0x20)) w) ∧
    (fresh (.onebM (.saddr 0x20)) w [0xFFE20] ∧ flows (.onebM (.saddr 0x20)) w) ∧
    (fresh (.clrbM (.saddr 0x20)) w [0xFFE20] ∧ flows (.clrbM (.saddr 0x20)) w) :=
  ⟨by decide +kernel, by decide +kernel, fun v => ⟨_, w_writes v⟩, by decide +kernel, by decide +kernel, by decide +kernel,
    by decide +kernel⟩
/-- The other kinds of byte: PSW, PMC (first write), a general register, a device register. -/
theorem witness_ByteStores_kinds :
    (byteAddr w (.sfr 0xFA) = .ok 0xFFFFA ∧ fresh (.movMI (.sfr 0xFA) 0xC1) w [0xFFFFA] ∧
      ∃ t, ByteWritten w 0xFFFFA 0xC1 t) ∧
    (byteAddr w (.sfr 0xFE) = .ok 0xFFFFE ∧ ∃ t, ByteWritten w 0xFFFFE 0x01 t) ∧
    (byteAddr w (.saddr 0xF8) = .ok 0xFFEF8 ∧ ∃ t, ByteWritten w 0xFFEF8 0x12 t) ∧
    (∃ t, ByteWritten { w with devIn := [.value 0] } 0xFFFFF 0x12 t) :=
  ⟨⟨by decide +kernel, by decide +kernel, _, .psw rfl⟩, ⟨by decide +kernel, _, .pmc rfl rfl⟩,
    ⟨by decide +kernel, _, .reg (by decide +kernel)⟩, _, .device 0 [] (by decide +kernel) rfl⟩
theorem witness_ByteExchangeAndMovs : byteAddr w (.saddr 0x20) = .ok 0xFFE20 ∧ ByteRead w 0xFFE20 0x88 w ∧
    fresh (.xchAM (.saddr 0x20)) w [0xFFE20] ∧ (∃ t, ByteWritten w 0xFFE20 (w.r8 w.bank .a) t) ∧
    flows (.xchAM (.saddr 0x20)) w ∧ byteAddr w (.hlOff false 0) = .ok 0xFFE20 ∧ fresh (.movs false 0) w [0xFFE20] ∧
    (∃ t, ByteWritten w 0xFFE20 (w.r8 w.bank .x) t) ∧ flows (.movs false 0) w :=
  ⟨by decide +kernel, w_reads, by decide +kernel, ⟨_, w_writes _⟩, by decide +kernel, by decide +kernel, by decide +kernel,
    ⟨_, w_writes _⟩, by decide +kernel⟩
theorem witness_WordRegisterMoves :
    flows (.movwRI .hl 0xFFFF) w ∧ flows (.movwAxR .hl) w ∧ flows (.movwRAx .bc) w := by decide +kernel
theorem witness_WordExchangeOneClear : flows (.xchw .bc) w ∧ flows (.xchw .hl) w ∧ flows (.onew .ax) w ∧ flows (.onew .bc) w ∧
    flows (.clrw .ax) w ∧ flows (.clrw .bc) w := by decide +kernel
theorem witness_WordLoads : wordAddr w (.saddr 0x21) = .ok 0xFFE20 ∧ wordAddr w (.hl false) = .ok 0xFFE20 ∧
    WordRead w 0xFFE20 0x7788 w ∧ flows (.movwAxM (.hl false)) w ∧ flows (.movwRM .hl (.saddr 0x21)) w :=
  ⟨by decide +kernel, by decide +kernel, w_reads_word, by decide +kernel, by decide +kernel⟩
theorem witness_WordStores : wordAddr w (.saddr 0x20) = .ok 0xFFE20 ∧
    fresh (.movwMI (.saddr 0x20) 0x1234) w [0xFFE20, 0xFFE20 + 1] ∧ (∀ v, ∃ t, WordWritten w 0xFFE20 v t) ∧
    flows (.movwMI (.saddr 0x20) 0x1234) w ∧ fresh (.movwMAx (.saddr 0x20)) w [0xFFE20, 0xFFE20 + 1] ∧
    flows (.movwMAx (.saddr 0x20)) w :=
  ⟨by decide +kernel, by decide +kernel, w_writes_word, by decide +kernel, by decide +kernel, by decide +kernel⟩
theorem witness_StackPointerForms :
    (flows (.movwMI (.sfr 0xF8) 0xFE21) w ∧ fresh (.movwMI (.sfr 0xF8) 0xFE21) w [0xFFFF8, 0xFFFF9]) ∧
    (flows (.movwMAx (.sfr 0xF8)) w ∧ fresh (.movwMAx (.sfr 0xF8)) w [0xFFFF8, 0xFFFF9]) ∧ flows (.movwAxM (.sfr 0xF8)) w ∧
    flows (.movwRM .hl (.abs false 0xFFF8)) w ∧ flows (.addwSp 0xFF) w ∧ flows (.subwSp 0xFF) w := by decide +kernel

/-- An entry of the table of operations. -/
def adds : Byte → Byte → Byte → Byte × Byte := fun p a b => ((add8 a b false).res, flags8 p (add8 a b false))
theorem adds_listed : (Instr.add, adds) ∈ Obligations.aluTable := List.mem_cons_self
theorem witness_ByteOperationsOnRegisters : (Instr.add, adds) ∈ Obligations.aluTable ∧ flows (.add (.aImm 0xFF)) w ∧
    flows (.add (.aReg .x)) w ∧ flows (.add (.regA .a)) w :=
  ⟨adds_listed, by decide +kernel, by decide +kernel, by decide +kernel⟩
theorem witness_ByteOperationsOnMemory : (Instr.add, adds) ∈ Obligations.aluTable ∧
    byteAddr w (.hl false) = .ok 0xFFE20 ∧ ByteRead w 0xFFE20 0x88 w ∧ flows (.add (.aMem (.hl false))) w ∧
    saddrAddr 0x20 = 0xFFE20 ∧ fresh (.add (.saddrImm 0x20 1)) w [0xFFE20] ∧
    (∃ t, ByteWritten w 0xFFE20 (adds w.psw 0x88 1).1 t) ∧ flows (.add (.saddrImm 0x20 1)) w :=
  ⟨adds_listed, by decide +kernel, w_reads, by decide +kernel, by decide +kernel, by decide +kernel, ⟨_, w_writes _⟩,
    by decide +kernel⟩
theorem witness_ByteCompares : ByteRead w 0xFFE20 0x88 w ∧ byteAddr w (.hl false) = .ok 0xFFE20 ∧
    saddrAddr 0x20 = 0xFFE20 ∧ upper w false + (0xFE20 : Word).toNat = 0xFFE20 ∧
    byteAddr w (.hlOff false 0) = .ok 0xFFE20 ∧
    (flows (.cmp (.aImm 0xFF)) w ∧ flows (.cmp (.aReg .x)) w ∧ flows (.cmp (.regA .a)) w ∧ flows (.cmp (.aMem (.hl false))) w ∧
      flows (.cmp (.saddrImm 0x20 1)) w ∧ flows (.cmp (.absImm false 0xFE20 1)) w ∧ flows (.cmp0R .a) w ∧
      flows (.cmp0M (.hl false)) w ∧ flows (.cmps false 0) w) :=
  ⟨w_reads, by decide +kernel, by decide +kernel, by decide +kernel, by decide +kernel, by decide +kernel⟩
theorem witness_WordOperations : wordAddr w (.saddr 0x20) = .ok 0xFFE20 ∧ WordRead w 0xFFE20 0x7788 w ∧
    w.r16 w.bank .bc = 0x0102 ∧ (flows (.addw (.reg .ax)) w ∧ flows (.addw (.mem (.saddr 0x20))) w ∧ flows (.subw (.reg .bc)) w ∧
      flows (.cmpw (.imm 0xFFFF)) w) := ⟨by decide +kernel, w_reads_word, by decide +kernel, by decide +kernel⟩
theorem witness_MultiplyUnsigned : flows .mulu w := by decide +kernel
theorem witness_ByteIncrementDecrement : (flows (.incR .a) w ∧ flows (.decR .h) w) ∧ byteAddr w (.saddr 0x20) = .ok 0xFFE20 ∧
    ByteRead w 0xFFE20 0x88 w ∧ fresh (.incM (.saddr 0x20)) w [0xFFE20] ∧ (∃ t, ByteWritten w 0xFFE20 (0x88 + 1) t) ∧
    flows (.incM (.saddr 0x20)) w ∧ fresh (.decM (.saddr 0x20)) w [0xFFE20] ∧ (∃ t, ByteWritten w 0xFFE20 (0x88 - 1) t) ∧
    flows (.decM (.saddr 0x20)) w :=
  ⟨by decide +kernel, by decide +kernel, w_reads, by decide +kernel, ⟨_, w_writes _⟩, by decide +kernel, by decide +kernel,
    ⟨_, w_writes _⟩, by decide +kernel⟩
theorem witness_WordIncrementDecrement : (flows (.incwR .ax) w ∧ flows (.decwR .hl) w) ∧
    wordAddr w (.saddr 0x20) = .ok 0xFFE20 ∧ WordRead w 0xFFE20 0x7788 w ∧
    fresh (.incwM (.saddr 0x20)) w [0xFFE20, 0xFFE20 + 1] ∧ (∃ t, WordWritten w 0xFFE20 (0x7788 + 1) t) ∧
    flows (.incwM (.saddr 0x20)) w ∧ fresh (.decwM (.saddr 0x20)) w [0xFFE20, 0xFFE20 + 1] ∧
    (∃ t, WordWritten w 0xFFE20 (0x7788 - 1) t) ∧ flows (.decwM (.saddr 0x20)) w :=
  ⟨by decide +kernel, by decide +kernel, w_reads_word, by decide +kernel, w_writes_word _, by decide +kernel,
    by decide +kernel, w_writes_word _, by decide +kernel⟩
theorem witness_Shifts : flows (.shr 1) w ∧ flows (.sar 7) w ∧ flows (.shl .c 7) w ∧ flows (.shrw 15) w ∧ flows (.sarw 1) w ∧
    flows (.shlw .bc 15) w := by decide +kernel
theorem witness_ShiftsRepeatOneBitSteps : (1 ≤ 1 ∧ 1 < 8) ∧ (1 ≤ 7 ∧ 7 < 8) ∧ (1 ≤ 15 ∧ 15 < 16) := by decide +kernel
theorem witness_Rotates :
    flows .ror w ∧ flows .rol w ∧ flows .rorc w ∧ flows .rolc w ∧ flows (.rolwc .ax) w ∧ flows (.rolwc .bc) w := by
  decide +kernel
theorem witness_BitsToCarry : w.r8 w.bank .a = 0x12 ∧ byteAddr w (.hl false) = .ok 0xFFE20 ∧ ByteRead w 0xFFE20 0x88 w ∧
    (flows (.mov1Cy .a 7) w ∧ flows (.and1 (.mem (.hl false)) 0) w ∧ flows (.or1 (.mem (.hl false)) 7) w ∧
      flows (.xor1 (.mem (.hl false)) 3) w) := ⟨by decide +kernel, by decide +kernel, w_reads, by decide +kernel⟩
theorem witness_BitWrites : (flows (.set1 .a 7) w ∧ flows (.clr1 (.mem (.saddr 0x20)) 0) w ∧
      flows (.mov1Bit (.mem (.saddr 0x20)) 7) w) ∧ byteAddr w (.saddr 0x20) = .ok 0xFFE20 ∧ ByteRead w 0xFFE20 0x88 w ∧
    fresh (.clr1 (.mem (.saddr 0x20)) 0) w [0xFFE20] ∧ (∃ t, ByteWritten w 0xFFE20 (setBit8 0x88 0 false) t) :=
  ⟨by decide +kernel, by decide +kernel, w_reads, by decide +kernel, _, w_writes _⟩
/-- The PSW.bit form. -/
theorem witness_BitWrites_psw : flows (.set1 (.mem (.sfr 0xFA)) 3) w ∧ byteAddr w (.sfr 0xFA) = .ok 0xFFFFA ∧
    ByteRead w 0xFFFFA 0x06 w ∧ fresh (.set1 (.mem (.sfr 0xFA)) 3) w [0xFFFFA] ∧
    (∃ t, ByteWritten w 0xFFFFA (setBit8 0x06 3 true) t) :=
  ⟨by decide +kernel, by decide +kernel, read8_iff.mp (by decide +kernel), by decide +kernel, _, .psw rfl⟩
theorem witness_SetBitWritesOneBit : (0 < 8 ∧ 0 < 8) ∧ (7 < 8 ∧ 7 < 8) := by decide +kernel
theorem witness_CarryBitInstructions : flows .set1Cy w ∧ flows .clr1Cy w ∧ flows .not1Cy w := by decide +kernel

/-! The stack at the two ends of its range: SP = RAM_BASE + 4 and SP = FEE0H. -/

def wLow : State := { w with sp := 0x8704 }
def wHigh : State := { w with sp := 0xFEE0 }
theorem witness_Calls : (∀ a ∈ frame4 wLow, inStack wLow.product a = true) ∧
    (∀ a ∈ frame4 wHigh, inStack wHigh.product a = true) ∧
    (fresh (.callR .hl) wHigh (frame4 wHigh) ∧ fresh (.callRel 0x0FFD) wHigh (frame4 wHigh) ∧
      crosses w.product w.pc.toNat (w.pc + 3 + (0x0FFD : Word).signExtend 20).toNat = false ∧
      fresh (.callAbs16 0xFFFF) wLow (frame4 wLow) ∧ fresh (.callAbs20 0xFFFFF) wLow (frame4 wLow)) := by decide +kernel
theorem witness_CallTable : WordRead w (0x80 + 2 * (0 : BitVec 5).toNat) 0x1234 w ∧
    WordRead w (0x80 + 2 * (31 : BitVec 5).toNat) 0x4000 w ∧ (∀ a ∈ frame4 w, inStack w.product a = true) ∧
    fresh (.callt 0) w (frame4 w) ∧ fresh (.callt 31) w (frame4 w) :=
  ⟨read16_iff.mp (by decide +kernel), read16_iff.mp (by decide +kernel), by decide +kernel, by decide +kernel, by decide +kernel⟩
theorem witness_SoftwareInterrupt : WordRead w 0x7E 0x3000 w ∧ (∀ a ∈ frame4 w, inStack w.product a = true) ∧
    fresh .brk w (frame4 w) := ⟨read16_iff.mp (by decide +kernel), by decide +kernel, by decide +kernel⟩
theorem witness_Returns : memRead (stackAddr w 0) w.mem = some 0x45 ∧ memRead (stackAddr w 1) w.mem = some 0x23 ∧
    memRead (stackAddr w 2) w.mem = some 0x01 ∧ inStack w.product (stackAddr w 0) = true ∧
    inStack w.product (stackAddr w 1) = true ∧ inStack w.product (stackAddr w 2) = true ∧
    memRead (stackAddr w 3) w.mem = some 0x86 ∧ inStack w.product (stackAddr w 3) = true := by decide +kernel
theorem witness_PushAndPop : ((∀ a ∈ frame2 wHigh, inStack wHigh.product a = true) ∧ fresh .pushPsw wHigh (frame2 wHigh) ∧
      flows .pushPsw wHigh) ∧ (fresh (.pushR .hl) wHigh (frame2 wHigh) ∧ flows (.pushR .hl) wHigh) ∧
    (memRead (stackAddr w 0) w.mem = some 0x45 ∧ memRead (stackAddr w 1) w.mem = some 0x23 ∧
      inStack w.product (stackAddr w 0) = true ∧ inStack w.product (stackAddr w 1) = true ∧ flows .popPsw w ∧
      flows (.popR .ax) w) := by decide +kernel
theorem witness_ReturnUndoesCall : (∃ t, exec (.callR .hl) w = .next t) ∧ (∃ t, exec (.callRel 2) w = .next t) ∧
    (∃ t, exec (.callAbs16 2) w = .next t) ∧ (∃ t, exec (.callAbs20 2) w = .next t) ∧ (∃ t, exec (.callt 31) w = .next t) ∧
    (∃ t, exec .brk w = .next t) :=
  ⟨exists_next (by decide +kernel), exists_next (by decide +kernel), exists_next (by decide +kernel),
    exists_next (by decide +kernel), exists_next (by decide +kernel), exists_next (by decide +kernel)⟩
theorem witness_UnconditionalBranches :
    crosses w.product w.pc.toNat (w.pc + 2 + (0x80 : Byte).signExtend 20).toNat = false ∧
    crosses w.product w.pc.toNat (w.pc + 3 + (0x7FFF : Word).signExtend 20).toNat = false := by decide +kernel
theorem witness_ConditionalBranches :
    ((Instr.bnc 0x80, true) ∈ Obligations.conditions 0x80 w.psw ∧
      crosses w.product w.pc.toNat (nextPc (.bnc 0x80) w + (0x80 : Byte).signExtend 20).toNat = false) ∧
    ((Instr.bz 0x7F, false) ∈ Obligations.conditions 0x7F w.psw ∧ flows (.bz 0x7F) w) := by decide +kernel
theorem witness_BitBranches : byteAddr w (.hl false) = .ok 0xFFE20 ∧ ByteRead w 0xFFE20 0x88 w ∧
    ((0x88 : Byte).getLsbD (7 : BitVec 3).toNat = true ∧
      crosses w.product w.pc.toNat (nextPc (.bt (.mem (.hl false)) 7 0x80) w + (0x80 : Byte).signExtend 20).toNat = false) ∧
    ((0x88 : Byte).getLsbD (0 : BitVec 3).toNat = !true ∧ flows (.bt (.mem (.hl false)) 0 0x80) w) ∧
    (w.r8 w.bank .a = 0x12 ∧ (0x12 : Byte).getLsbD (0 : BitVec 3).toNat = false ∧
      crosses w.product w.pc.toNat (nextPc (.bf .a 0 0x7F) w + (0x7F : Byte).signExtend 20).toNat = false) :=
  ⟨by decide +kernel, w_reads, by decide +kernel, by decide +kernel, by decide +kernel⟩
theorem witness_BitTestAndClear :
    ((w.r8 w.bank .a).getLsbD (4 : BitVec 3).toNat = true ∧
      crosses w.product w.pc.toNat (w.pc + 3 + (0x80 : Byte).signExtend 20).toNat = false) ∧
    ((w.r8 w.bank .a).getLsbD (0 : BitVec 3).toNat = false ∧ flows (.btclr .a 0 2) w) ∧
    byteAddr w (.saddr 0x20) = .ok 0xFFE20 ∧ ByteRead w 0xFFE20 0x88 w ∧
    ((0x88 : Byte).getLsbD (7 : BitVec 3).toNat = true ∧ fresh (.btclr (.mem (.saddr 0x20)) 7 2) w [0xFFE20] ∧
      (∃ t, ByteWritten w 0xFFE20 (setBit8 0x88 (7 : BitVec 3).toNat false) t) ∧
      crosses w.product w.pc.toNat
        (nextPc (.btclr (.mem (.saddr 0x20)) 7 2) w + (2 : Byte).signExtend 20).toNat = false) ∧
    ((0x88 : Byte).getLsbD (0 : BitVec 3).toNat = false ∧ flows (.btclr (.mem (.saddr 0x20)) 0 2) w) :=
  ⟨by decide +kernel, by decide +kernel, by decide +kernel, w_reads,
    ⟨by decide +kernel, by decide +kernel, ⟨_, w_writes _⟩, by decide +kernel⟩, by decide +kernel⟩
/-- A taken skip over one byte, over bytes that are no instruction, and a skip that is not taken. -/
theorem witness_ConditionalSkips :
    ((Instr.sknc, true) ∈ Obligations.skips w.psw ∧ flows .sknc w ∧ fetchAt w (w.pc + 2).toNat = .ok (.nop, 1) ∧
      Instr.nop ≠ .prefixAlone ∧ crosses w.product w.pc.toNat (w.pc + 2 + BitVec.ofNat 20 1).toNat = false) ∧
    ((Instr.skc, false) ∈ Obligations.skips w.psw ∧ flows .skc w) ∧
    fetchAt (w.put 0x01002 0xFF) (w.pc + 2).toNat = .error .illegalEncoding ∧
    fetchAt (w.put 0x01002 0x11) (w.pc + 2).toNat = .error .undefinedRead ∧
    fetchAt ((w.put 0x01002 0x11).put 0x01003 0x00) (w.pc + 2).toNat = .ok (.prefixAlone, 1) := by decide +kernel
theorem witness_ControlInstructions : flows (.sel 3) w ∧ flows .ei w ∧ flows .di w ∧ flows .halt w ∧ flows .stop w := by
  decide +kernel
theorem witness_NopOnlyAdvances : flows .nop w ∧ flows .nop { w with pc := 0x7FFFF } := by decide +kernel

/-! The stack's range, F8700H to FFEDFH on product T: one byte below it and above it, and a later byte alone outside. -/

def wBelow : State := { w with sp := 0x8700 }
def wAbove : State := { w with sp := 0xFEE2 }
def wCut : State := { w with sp := 0x8702 }
theorem witness_StackOutsideRamStops_push :
    (flows (.pushR .ax) wBelow ∧ fresh (.pushR .ax) wBelow (frame2 wBelow) ∧
      ∃ a ∈ frame2 wBelow, inStack wBelow.product a = false) ∧
    (flows .pushPsw wAbove ∧ fresh .pushPsw wAbove (frame2 wAbove) ∧
      ∃ a ∈ frame2 wAbove, inStack wAbove.product a = false) := by decide +kernel
theorem witness_StackOutsideRamStops_calls : (∃ a ∈ frame4 wCut, inStack wCut.product a = false) ∧
    (fresh (.callR .hl) wCut (frame4 wCut) ∧ fresh (.callAbs16 0) wCut (frame4 wCut) ∧
      fresh (.callAbs20 0) wCut (frame4 wCut) ∧ fresh (.callRel 0) wCut (frame4 wCut) ∧
      fresh (.callt 31) wCut (frame4 wCut) ∧ fresh .brk wCut (frame4 wCut)) ∧
    crosses wCut.product wCut.pc.toNat (wCut.pc + 3 + (0 : Word).signExtend 20).toNat = false ∧
    WordRead wCut (0x80 + 2 * (31 : BitVec 5).toNat) 0x4000 wCut ∧ WordRead wCut 0x7E 0x3000 wCut :=
  ⟨by decide +kernel, by decide +kernel, by decide +kernel, read16_iff.mp (by decide +kernel),
    read16_iff.mp (by decide +kernel)⟩
theorem witness_StackOutsideRamStops_entry : { wCut with psw := 0x86, pending := [irq] }.resetNow = false ∧
    pickRequest { wCut with psw := 0x86, pending := [irq] } [irq] = some (irq, []) ∧
    irq.source wCut.product = some { kind := .maskable, vector := 0x0C } ∧
    WordRead { wCut with psw := 0x86, pending := [irq] } 0x0C 0x0500 { wCut with psw := 0x86, pending := [irq] } :=
  ⟨by decide +kernel, by decide +kernel, by decide +kernel, read16_iff.mp (by decide +kernel)⟩
theorem witness_StackOutsideRamStops_returns :
    (flows .popPsw wHigh ∧ inStack wHigh.product (stackAddr wHigh 0) = false) ∧
    (flows (.popR .ax) { w with sp := 0xFEDF } ∧ inStack w.product (stackAddr { w with sp := 0xFEDF } 0) = true ∧
      inStack w.product (stackAddr { w with sp := 0xFEDF } 1) = false) ∧
    (inStack w.product (stackAddr { w with sp := 0xFEDE } 1) = true ∧
      inStack w.product (stackAddr { w with sp := 0xFEDE } 2) = false) ∧
    (inStack w.product (stackAddr { w with sp := 0xFEDD } 2) = true ∧
      inStack w.product (stackAddr { w with sp := 0xFEDD } 3) = false) := by decide +kernel
theorem witness_StackOutsideRamStops_operands :
    (byteOperand (.movAM (.spOff 0xE0)) = some (.spOff 0xE0) ∧ byteOperand (.movMI (.spOff 0xE0) 1) = some (.spOff 0xE0) ∧
      flows (.movAM (.spOff 0xE0)) w ∧ flows (.movMI (.spOff 0xE0) 1) w) ∧
    (wordOperand (.movwAxM (.spOff 0xE0)) = some (.spOff 0xE0) ∧ wordOperand (.movwMAx (.spOff 0xE0)) = some (.spOff 0xE0) ∧
      flows (.movwAxM (.spOff 0xE0)) w ∧ flows (.movwMAx (.spOff 0xE0)) w) ∧
    w.sp.toNat + (0xE0 : Byte).toNat ≤ 0xFFFF ∧ (w.sp.toNat + (0xE0 : Byte).toNat) % 2 = 0 ∧
    inStack w.product (0xF0000 + (w.sp.toNat + (0xE0 : Byte).toNat)) = false ∧
    inStack w.product (0xF0000 + (w.sp.toNat + (0xDF : Byte).toNat)) = true := by decide +kernel

/-- Every based and based-indexed form with a sum one above its range. -/
def wTop : State :=
  { (w.setR16 0 .hl 0xFFFF).setR16 0 .de 0xFFFF with sp := 0xFFFF }
def overflows (s : State) (m : MemOp) : Bool :=
  match Obligations.sumOf s m with
  | some (es, n) => decide ((if es then 0xFFFFF else 0xFFFF) < (if es then (s.es.toNat % 16) * 0x10000 else 0) + n)
  | none => false
theorem witness_AddressFaults_overflow : ([.deOff false 1, .deOff true 1, .hlOff false 1, .hlOff true 1, .spOff 1, .hlB false,
      .hlB true, .hlC false, .hlC true, .wordB false 0xFFFF, .wordB true 0xFFFF, .wordC false 0xFFFE, .wordC true 0xFFFE,
      .wordBC false 0xFEFE, .wordBC true 0xFEFE] : List MemOp).all (fun m =>
        overflows wTop m && decide (byteOperand (.movAM m) = some m ∧ flows (.movAM m) wTop) &&
        decide (wordOperand (.movwAxM m) = some m ∧ flows (.movwAxM m) wTop)) = true ∧
    (0xFFFF + 1) % 2 = 0 := by decide +kernel
/-- Odd words, at a register and at a sum; direct forms at an odd address. -/
theorem witness_AddressFaults_odd :
    (wordOperand (.movwAxM (.hl false)) = some (.hl false) ∧ ea wTop (.hl false) = .ok 0xFFFFF ∧ flows (.movwAxM (.hl false)) wTop) ∧
    (wordOperand (.movwMAx (.de true)) = some (.de true) ∧ ea wTop (.de true) = .ok 0xFFFFF ∧ flows (.movwMAx (.de true)) wTop) ∧
    (wordOperand (.addw (.mem (.hlOff false 1))) = some (.hlOff false 1) ∧ ea w (.hlOff false 1) = .ok 0xFFE21 ∧
      flows (.addw (.mem (.hlOff false 1))) w) ∧
    (wordOperand (.movwAxM (.spOff 0xDD)) = some (.spOff 0xDD) ∧ ea w (.spOff 0xDD) = .ok 0xFFEDD ∧
      inStack w.product 0xFFEDD = true ∧ inStack w.product (0xFFEDD + 1) = true ∧ flows (.movwAxM (.spOff 0xDD)) w) ∧
    (isDirect (.hl false) = false ∧ isStack (.hl false) = false ∧ isStack (.spOff 0xDD) = true) ∧
    (isDirect (.sfr 0xFF) = true ∧ byteAddr w (.sfr 0xFF) = .ok 0xFFFFF ∧ isDirect (.saddr 0x21) = true ∧
      isDirect (.abs true 0xFFFF) = true ∧ wordAddr w (.abs true 0xFFFF) = .ok 0xFFFFE) := by decide +kernel

/-! Where a byte cannot be read or written. -/

/-- A product with flash below 01000H, so that the mirror shows nothing, and external memory that takes no writes. -/
def wSmall : State := { w with product := { Config.productT with flashTop := 0x00FFF, hasExtMem := true }, pc := 0x00100 }

theorem w_silent (v : Word) (rest : List DevAnswer) : w.devIn ≠ .value v :: rest := by
  have h : w.devIn = [] := by decide +kernel
  simp [h]

theorem witness_RegionFaults_reads :
    (byteAddr w (.sfr 0xFB) = .ok 0xFFFFB ∧ ByteReadFails w 0xFFFFB .undefinedRead ∧ flows (.movAM (.sfr 0xFB)) w) ∧
    (byteAddr w (.sfr 0xFF) = .ok 0xFFFFF ∧ ByteReadFails { w with devIn := [.refuse] } 0xFFFFF .deviceRefused) ∧
    (byteAddr w (.abs false 0x8700) = .ok 0xF8700 ∧ ByteReadFails w 0xF8700 .undefinedRead ∧
      flows (.movAM (.abs false 0x8700)) w) ∧
    (byteAddr w (.abs false 0x1000) = .ok 0xF1000 ∧ ByteReadFails { w with pmcSettle := true } 0xF1000 .mirrorTooEarly) ∧
    (byteAddr w (.abs false 0x86FF) = .ok 0xF86FF ∧ ByteReadFails w 0xF86FF .undefinedRead) ∧
    ByteReadFails wSmall 0xF1000 .unmappedAccess ∧
    (byteAddr w (.abs false 0x0800) = .ok 0xF0800 ∧ ByteReadFails w 0xF0800 .unmappedAccess) :=
  ⟨⟨by decide +kernel, .reserved (by decide +kernel), by decide +kernel⟩,
    ⟨by decide +kernel, .device (by decide +kernel) (by simp)⟩,
    ⟨by decide +kernel, .unwritten (by decide +kernel) (by decide +kernel), by decide +kernel⟩,
    ⟨by decide +kernel, .tooEarly (by decide +kernel) rfl⟩,
    ⟨by decide +kernel, .unplaced (by decide +kernel) rfl (by decide +kernel) (by decide +kernel)⟩,
    .beyondFlash (by decide +kernel) rfl (by decide +kernel),
    ⟨by decide +kernel, .unmapped (by decide +kernel)⟩⟩
theorem ram_takes_writes {s : State} {a : Nat} (h : region s.product a = .ram) (f g : Fault) (hg : ByteWriteFails s a g) :
    g = f := by
  obtain ⟨t, ht⟩ : ∃ t, ByteWritten s a 0 t := ⟨_, .ram h⟩
  have hb := (write8_error (v := 0)).mpr hg
  rw [write8_iff.mpr ht] at hb
  cases hb
/-- A read-modify-write form. -/
theorem witness_RegionFaults_modify : byteOperand (.incM (.abs false 0x8700)) = some (.abs false 0x8700) ∧
    byteAddr w (.abs false 0x8700) = .ok 0xF8700 ∧ flows (.incM (.abs false 0x8700)) w ∧
    readsOperand (.incM (.abs false 0x8700)) = true ∧ ByteReadFails w 0xF8700 .undefinedRead ∧
    fresh (.incM (.abs false 0x8700)) w [0xF8700] ∧ ∀ g, ByteWriteFails w 0xF8700 g → g = .undefinedRead :=
  ⟨by decide +kernel, by decide +kernel, by decide +kernel, by decide +kernel,
    .unwritten (by decide +kernel) (by decide +kernel), by decide +kernel, ram_takes_writes (by decide +kernel) _⟩
theorem witness_RegionFaults_writes :
    (AboutToStore (.movMA (.sfr 0xFB)) w 0xFFFFB w ∧ fresh (.movMA (.sfr 0xFB)) w [0xFFFFB] ∧
      ByteWriteFails w 0xFFFFB .reservedWrite) ∧
    (byteAddr { w with es := 0 } (.abs true 0xFFFF) = .ok 0x0FFFF ∧
      fresh (.onebM (.abs true 0xFFFF)) { w with es := 0 } [0x0FFFF] ∧ ByteWriteFails { w with es := 0 } 0x0FFFF .writeToReadOnly) ∧
    (fresh (.set1 (.mem (.abs false 0x1000)) 7) w [0xF1000] ∧ ByteWriteFails w 0xF1000 .writeToReadOnly ∧
      AboutToStore (.set1 (.mem (.abs false 0x1000)) 7) w 0xF1000 w) ∧
    ByteWriteFails w 0xF0800 .unmappedAccess ∧ ByteWriteFails w 0xFFFFF .deviceRefused ∧
    ByteWriteFails wSmall 0x01000 .deviceRefused ∧ ByteWriteFails { w with pmcWritten := true } 0xFFFFE .pmcRewrite :=
  ⟨⟨.atOnce rfl rfl, by decide +kernel, .reserved (by decide +kernel)⟩,
    ⟨by decide +kernel, by decide +kernel, .readOnly (by decide +kernel)⟩,
    ⟨by decide +kernel, .readOnly (by decide +kernel), .afterRead (v := 0x00) rfl (read8_iff.mp (by decide +kernel)) rfl⟩,
    .unmapped (by decide +kernel), .device (by decide +kernel) w_silent, .external (by decide +kernel) rfl, .second rfl rfl⟩

/-- PC in RAM: the byte behind the store is in the fetch window, the last byte of the store's own encoding is not. -/
def wRam : State := { w with pc := 0xF9000 }
theorem witness_RegionFaults_stale :
    (byteAddr wRam (.abs false 0x9003) = .ok 0xF9003 ∧ AboutToStore (.movMA (.abs false 0x9003)) wRam 0xF9003 wRam ∧
      ¬ fresh (.movMA (.abs false 0x9003)) wRam [0xF9003] ∧ ∃ t, ByteWritten wRam 0xF9003 0 t) ∧
    (wordAddr wRam (.abs false 0x9002) = .ok 0xF9002 ∧
      AboutToStoreWord (.movwMAx (.abs false 0x9002)) wRam 0xF9002 0x1234 wRam ∧
      ¬ fresh (.movwMAx (.abs false 0x9002)) wRam [0xF9002, 0xF9002 + 1] ∧ ∃ t, WordWritten wRam 0xF9002 0x1234 t) :=
  ⟨⟨by decide +kernel, .atOnce rfl rfl, by decide +kernel, _, .ram (by decide +kernel)⟩,
    ⟨by decide +kernel, .atOnce rfl rfl, by decide +kernel, _, ram_word_written (by decide +kernel) (by decide +kernel)
      (by decide +kernel)⟩⟩
/-- Words: a device that refuses, a low byte and a high byte that cannot be read or written, and tables without a word. -/
theorem witness_RegionFaults_words :
    (wordAddr w (.sfr 0x01) = .ok 0xFFF00 ∧ WordReadFails w 0xFFF00 .deviceRefused ∧
      WordWriteFails w 0xFFF00 0x1234 .deviceRefused ∧ fresh (.movwMAx (.sfr 0x01)) w [0xFFF00, 0xFFF00 + 1]) ∧
    (wordAddr w (.abs false 0x8700) = .ok 0xF8700 ∧ WordReadFails w 0xF8700 .undefinedRead) ∧
    (wordAddr (w.put 0xF8700 0x55) (.abs false 0x8700) = .ok 0xF8700 ∧ WordReadFails (w.put 0xF8700 0x55) 0xF8700 .undefinedRead) ∧
    (wordAddr w (.abs false 0x1000) = .ok 0xF1000 ∧ WordWriteFails w 0xF1000 0x1234 .writeToReadOnly) ∧
    (wordAddr w (.sfr 0xFA) = .ok 0xFFFFA ∧ WordWriteFails w 0xFFFFA 0x1234 .reservedWrite) ∧
    (WordReadFails w (0x80 + 2 * (1 : BitVec 5).toNat) .undefinedRead ∧ (∀ a ∈ frame4 w, inStack w.product a = true) ∧
      fresh (.callt 1) w (frame4 w)) ∧
    (WordReadFails { w with mem := [] } 0x7E .undefinedRead ∧ fresh .brk { w with mem := [] } (frame4 w)) :=
  ⟨⟨by decide +kernel, .device (by decide +kernel) w_silent, .device (by decide +kernel) w_silent,
      by decide +kernel⟩,
    ⟨by decide +kernel, .low (by decide +kernel) (.unwritten (by decide +kernel) (by decide +kernel))⟩,
    ⟨by decide +kernel, .high (l := 0x55) (s1 := w.put 0xF8700 0x55) (by decide +kernel) (read8_iff.mp (by decide +kernel))
      (.unwritten (by decide +kernel) (by decide +kernel))⟩,
    ⟨by decide +kernel, .low (by decide +kernel) (.readOnly (by decide +kernel))⟩,
    ⟨by decide +kernel, .high (by decide +kernel) (.psw rfl) (.reserved (by decide +kernel))⟩,
    ⟨.low (by decide +kernel) (.unwritten (by decide +kernel) (by decide +kernel)), by decide +kernel, by decide +kernel⟩,
    ⟨.low (by decide +kernel) (.unwritten (by decide +kernel) (by decide +kernel)), by decide +kernel⟩⟩

/-! A product whose flash is followed by external memory; PC at the last byte of the flash. -/

def wExt : State := { w with product := { Config.productT with flashTop := 0x0FFFF, hasExtMem := true }, pc := 0x0FFFF }
theorem witness_FetchRegionFaults_branches :
    crosses wExt.product wExt.pc.toNat (nextPc (.brRel8 0) wExt + (0 : Byte).signExtend 20).toNat = true ∧
    ((Instr.bnc 0x7F, true) ∈ Obligations.conditions 0x7F wExt.psw ∧
      crosses wExt.product wExt.pc.toNat (nextPc (.bnc 0x7F) wExt + (0x7F : Byte).signExtend 20).toNat = true) ∧
    crosses wExt.product wExt.pc.toNat (wExt.pc + 3 + (0x7FFF : Word).signExtend 20).toNat = true ∧
    (fresh (.callRel 0x7FFF) wExt (frame4 wExt) ∧ ∀ a ∈ frame4 wExt, inStack wExt.product a = true) ∧
    ((Instr.bz 0x7F, false) ∈ Obligations.conditions 0x7F wExt.psw ∧ ¬ flows (.bz 0x7F) wExt) := by decide +kernel
theorem wExt_reads : ByteRead wExt 0xFFE20 0x88 wExt := read8_iff.mp (by decide +kernel)
theorem wExt_writes (v : Byte) : ByteWritten wExt 0xFFE20 v { wExt with mem := memWrite 0xFFE20 v wExt.mem } :=
  .ram (by decide +kernel)
/-- On A and on a byte of memory, the bit set and the bit clear. -/
theorem witness_FetchRegionFaults_bits :
    (wExt.r8 wExt.bank .a = 0x12 ∧ (0x12 : Byte).getLsbD (4 : BitVec 3).toNat = true ∧
      (0x12 : Byte).getLsbD (0 : BitVec 3).toNat = false) ∧
    (byteAddr wExt (.saddr 0x20) = .ok 0xFFE20 ∧ ByteRead wExt 0xFFE20 0x88 wExt ∧
      (0x88 : Byte).getLsbD (7 : BitVec 3).toNat = true ∧ (0x88 : Byte).getLsbD (0 : BitVec 3).toNat = false) ∧
    (fresh (.btclr (.mem (.saddr 0x20)) 7 0x7F) wExt [0xFFE20] ∧
      ∃ u, ByteWritten wExt 0xFFE20 (setBit8 0x88 (7 : BitVec 3).toNat false) u) ∧
    ([.bt .a 4 0, .bf .a 0 0, .btclr .a 4 0, .bt (.mem (.saddr 0x20)) 7 0, .bf (.mem (.saddr 0x20)) 0 0,
      .btclr (.mem (.saddr 0x20)) 7 0x7F] : List Instr).all (fun i =>
        crosses wExt.product wExt.pc.toNat (nextPc i wExt + (0 : Byte).signExtend 20).toNat &&
        crosses wExt.product wExt.pc.toNat (nextPc i wExt + (0x7F : Byte).signExtend 20).toNat &&
        !decide (flows i wExt)) = true :=
  ⟨by decide +kernel, ⟨by decide +kernel, wExt_reads, by decide +kernel, by decide +kernel⟩,
    ⟨by decide +kernel, _, wExt_writes _⟩, by decide +kernel⟩
theorem witness_FetchRegionFaults_completes : sequential .nop = true ∧ ∃ t, exec .nop w = .next t :=
  ⟨by decide +kernel, exists_next (by decide +kernel)⟩
theorem saddr_at : byteAddr wExt (.saddr 0x20) = .ok 0xFFE20 := by decide +kernel
/-- A register form, a load, a store, a read-modify-write, a word store, a PUSH and a POP. -/
theorem witness_FetchRegionFaults_sequential :
    (AccessesSucceed .nop wExt ∧ ¬ flows .nop wExt ∧ sequential .nop = true) ∧
    (AccessesSucceed (.movAM (.saddr 0x20)) wExt ∧ ¬ flows (.movAM (.saddr 0x20)) wExt) ∧
    (AccessesSucceed (.movMI (.saddr 0x20) 1) wExt ∧ ¬ flows (.movMI (.saddr 0x20) 1) wExt) ∧
    (AccessesSucceed (.incM (.saddr 0x20)) wExt ∧ ¬ flows (.incM (.saddr 0x20)) wExt) ∧
    (AccessesSucceed (.movwMAx (.saddr 0x20)) wExt ∧ ¬ flows (.movwMAx (.saddr 0x20)) wExt) ∧
    (AccessesSucceed .pushPsw wExt ∧ ¬ flows .pushPsw wExt) ∧ (AccessesSucceed (.popR .hl) wExt ∧ ¬ flows (.popR .hl) wExt) := by
  refine ⟨⟨?_, by decide +kernel, rfl⟩, ⟨?_, by decide +kernel⟩, ⟨?_, by decide +kernel⟩, ⟨?_, by decide +kernel⟩,
    ⟨?_, by decide +kernel⟩, ⟨?_, by decide +kernel⟩, ⟨?_, by decide +kernel⟩⟩
  · exact ⟨fun _ h => (by cases h), fun _ h => (by cases h), by simp, by simp⟩
  · refine ⟨fun _ h => ?_, fun _ h => (by cases h), by simp, by simp⟩
    cases h
    refine ⟨_, saddr_at, fun _ => ⟨_, _, wExt_reads⟩, fun u h => ?_⟩
    cases h with
    | atOnce stores noRead => cases noRead
    | afterRead reads read stores => cases stores
  · refine ⟨fun _ h => ?_, fun _ h => (by cases h), by simp, by simp⟩
    cases h
    refine ⟨_, saddr_at, fun h => (by cases h), fun u h => ?_⟩
    cases h with
    | atOnce stores noRead => exact ⟨by decide +kernel, fun v => ⟨_, wExt_writes v⟩⟩
    | afterRead reads read stores => cases reads
  · refine ⟨fun _ h => ?_, fun _ h => (by cases h), by simp, by simp⟩
    cases h
    refine ⟨_, saddr_at, fun _ => ⟨_, _, wExt_reads⟩, fun u h => ?_⟩
    cases h with
    | atOnce stores noRead => cases noRead
    | afterRead reads read stores =>
      have hu := (read8_iff.mpr read).symm.trans (read8_iff.mpr wExt_reads)
      simp only [Except.ok.injEq, Prod.mk.injEq] at hu
      rw [hu.2]
      exact ⟨by decide +kernel, fun v => ⟨_, wExt_writes v⟩⟩
  · refine ⟨fun _ h => (by cases h), fun _ h => ?_, by simp, by simp⟩
    cases h
    refine ⟨0xFFE20, by decide +kernel, fun h => (by cases h), fun v u h => ?_⟩
    cases h with
    | atOnce stores noRead =>
      exact ⟨by decide +kernel, _, ram_word_written (by decide +kernel) (by decide +kernel) (by decide +kernel)⟩
    | afterRead reads read stores => cases reads
  · exact ⟨fun _ h => (by cases h), fun _ h => (by cases h), fun _ => by decide +kernel, by simp⟩
  · refine ⟨fun _ h => (by cases h), fun _ h => (by cases h), by simp, fun _ k hk => ?_⟩
    simp only [List.mem_cons, List.not_mem_nil, or_false] at hk
    rcases hk with rfl | rfl
    · exact ⟨by decide +kernel, 0x45, by decide +kernel⟩
    · exact ⟨by decide +kernel, 0x23, by decide +kernel⟩
/-- A skip that is the last instruction of the flash, one over bytes that are no instruction, and one over the last
instruction of the flash. -/
theorem witness_FetchRegionFaults_skips :
    ((Instr.sknc, true) ∈ Obligations.skips wExt.psw ∧ ¬ flows .sknc wExt) ∧
    ((Instr.skc, false) ∈ Obligations.skips wExt.psw ∧ ¬ flows .skc wExt) ∧
    (flows .sknc (w.put 0x01002 0xFF) ∧
      fetchAt (w.put 0x01002 0xFF) ((w.put 0x01002 0xFF).pc + 2).toNat = .error .illegalEncoding) ∧
    (flows .sknc { wExt.put 0x0FFFF 0x00 with pc := 0x0FFFD } ∧
      fetchAt { wExt.put 0x0FFFF 0x00 with pc := 0x0FFFD } (0x0FFFD + 2 : Addr).toNat = .ok (.nop, 1) ∧
      crosses wExt.product 0x0FFFD (0x0FFFD + 2 + BitVec.ofNat 20 1 : Addr).toNat = true) := by decide +kernel
theorem witness_FetchRegionFaults_fetch : { w with pc := 0xFFEE0 }.resetNow = false ∧
    pickRequest { w with pc := 0xFFEE0 } [] = none ∧ fetchRegion w.product 0xFFEE0 = none ∧
    fetchRegion w.product 0xFFEDF = some .ram := by decide +kernel

/-- A request of each kind, with the level at ISP and above it; a product without ISP1. -/
def nmi : Request := { src := 0, level := 0, delay := 0, latency := 0 }
def wInt (isp : Byte) (q : Request) : State :=
  { (w.put 0x00004 0x00).put 0x00005 0x06 with psw := 0x80 ||| (isp <<< 1), pending := [q] }
def wOneBit (q : Request) : State := { wInt 1 q with product := { Config.productT with hasIsp1 := false } }
theorem witness_AcceptanceCondition :
    irq.source w.product = some { kind := .maskable, vector := 0x0C } ∧
    nmi.source w.product = some { kind := .nonmaskable, vector := 0x04 } ∧
    ({ irq with src := 60 } : Request).source w.product = some { kind := .maskable, vector := 0x7C } ∧
    ({ irq with src := 61 } : Request).source w.product = none ∧
    (w.intInhibit = false ∧ nmi.delay = 0 ∧ nmi.latency = 0) ∧ pswIE w.psw = false ∧
    ((wInt 2 irq).intInhibit = false ∧ irq.delay = 0 ∧ irq.latency = 0 ∧ pswIE (wInt 2 irq).psw = true ∧
      (wInt 2 irq).product.hasIsp1 = true ∧ irq.level ≤ pswISP (wInt 2 irq).psw ∧ ¬ irq.level ≤ pswISP (wInt 1 irq).psw) ∧
    ((wOneBit irq).product.hasIsp1 = false ∧ irq.source (wOneBit irq).product = irq.source w.product ∧
      (wOneBit irq).psw.getLsbD 1 = true ∧ irq.level.getLsbD 0 = false) := by decide +kernel
/-- The three kinds of entry: maskable, non-maskable, maskable without ISP1. -/
theorem witness_InterruptEntry :
    ((wInt 3 irq).resetNow = false ∧ pickRequest (wInt 3 irq) (wInt 3 irq).pending = some (irq, []) ∧
      irq.source (wInt 3 irq).product = some { kind := .maskable, vector := 0x0C } ∧
      (∀ a ∈ frame4 (wInt 3 irq), inStack (wInt 3 irq).product a = true) ∧ (wInt 3 irq).product.hasIsp1 = true) ∧
    WordRead (wInt 3 irq) 0x0C 0x0500 (wInt 3 irq) ∧
    (pickRequest (wInt 0 nmi) (wInt 0 nmi).pending = some (nmi, []) ∧
      nmi.source (wInt 0 nmi).product = some { kind := .nonmaskable, vector := 0x04 }) ∧
    WordRead (wInt 0 nmi) 0x04 0x0600 (wInt 0 nmi) ∧
    (pickRequest (wOneBit irq) (wOneBit irq).pending = some (irq, []) ∧ (wOneBit irq).product.hasIsp1 = false ∧
      (wOneBit irq).resetNow = false ∧ ∀ a ∈ frame4 (wOneBit irq), inStack (wOneBit irq).product a = true) ∧
    WordRead (wOneBit irq) 0x0C 0x0500 (wOneBit irq) :=
  ⟨by decide +kernel, read16_iff.mp (by decide +kernel), by decide +kernel, read16_iff.mp (by decide +kernel),
    by decide +kernel, read16_iff.mp (by decide +kernel)⟩
/-- The state right after the entry is itself a handler's end. -/
theorem witness_RetiResumesInterrupted : (wInt 3 irq).resetNow = false ∧
    pickRequest (wInt 3 irq) (wInt 3 irq).pending = some (irq, []) ∧
    ∃ t u : State, step (wInt 3 irq) = .next t ∧ u.sp = t.sp ∧ u.product = t.product ∧
      ∀ a ∈ frame4 (wInt 3 irq), memRead a u.mem = memRead a t.mem := by
  obtain ⟨t, ht⟩ := exists_next (o := step (wInt 3 irq)) (by decide +kernel)
  exact ⟨by decide +kernel, by decide +kernel, t, t, ht, rfl, rfl, fun _ _ => rfl⟩
theorem witness_StandbySteps :
    (({ w with mode := .stop } : State).resetNow = false ∧ ({ w with mode := .stop } : State).mode ≠ .run ∧
      pickRequest { w with mode := .stop } [] = none) ∧
    (({ w with mode := .halt, pending := [irq] } : State).mode ≠ .run ∧
      pickRequest { w with mode := .halt, pending := [irq] } [irq] = none) := by decide +kernel
theorem witness_ResetEvent : ({ w with resets := [0] } : State).resetNow = true ∧ w.product.ok = true ∧
    memRead w.product.resetVectorAddr w.mem = some 0x00 ∧ memRead (w.product.resetVectorAddr + 1) w.mem = some 0x01 := by
  decide +kernel
theorem witness_RegistersAreMemory :
    (∃ t, ByteWritten w (0xFFEF8 - 8 * (pswRBS w.psw).toNat + regNum .h) 0xFF t) ∧
    (∃ t, ByteWritten { w with psw := 0x2E } (0xFFEF8 - 8 * (pswRBS 0x2E).toNat + regNum .x) 0xFF t) ∧
    (∃ t, exec (.sel 3) w = .next t) :=
  ⟨⟨_, .reg (by decide +kernel)⟩, ⟨_, .reg (by decide +kernel)⟩, exists_next (by decide +kernel)⟩

end Sys2Proof.Tests
end

section

/-! # Add and subtract are exact (`00_scope.md` R12)

The two shapes of an exact operation, for every width: the low `w` bits of a sum with its carry, and the low `w` bits of a
difference with its borrow. Below them, one lemma for each thing that `add8`, `sub8`, `add16` and `sub16` answer. -/

namespace Sys2Proof.Laws.AddSub
open Sys2Proof.Machine

@[simp] theorem bitNat_true : bitNat true = 1 := rfl
@[simp] theorem bitNat_false : bitNat false = 0 := rfl

theorem bitNat_le_one (c : Bool) : bitNat c ≤ 1 := by cases c <;> decide

/-! ### Truncation to `w` bits -/

/-- The carry is the one bit of a sum that the truncation drops. -/
theorem toNat_ofNat_add_carry {w s : Nat} {cy : Bool} (hs : s < 2 * 2 ^ w) (hcy : cy = true ↔ 2 ^ w ≤ s) :
    (BitVec.ofNat w s).toNat + 2 ^ w * bitNat cy = s := by
  rw [BitVec.toNat_ofNat]
  cases cy with
  | false =>
    have hlt : s < 2 ^ w := by simpa using hcy
    simp [Nat.mod_eq_of_lt hlt]
  | true =>
    have hle : 2 ^ w ≤ s := hcy.mp rfl
    rw [Nat.mod_eq_sub_mod hle, Nat.mod_eq_of_lt (by omega), bitNat_true]
    omega

/-- A borrow says that the truncation of a difference below 0 added `2 ^ w` to it. -/
theorem toNat_ofInt_add_subtrahend {w m n : Nat} {cy : Bool} (hm : m < 2 ^ w) (hn : n ≤ 2 ^ w)
    (hcy : cy = true ↔ m < n) :
    (BitVec.ofInt w (m - n)).toNat + n = m + 2 ^ w * bitNat cy := by
  have hmod : ((BitVec.ofInt w (m - n)).toNat : Int) = ((m : Int) - n) % (2 ^ w : Nat) := by
    rw [BitVec.toNat_ofInt, Int.toNat_of_nonneg (Int.emod_nonneg _ (by positivity))]
  cases cy with
  | false =>
    have hle : n ≤ m := by simpa using hcy
    rw [Int.emod_eq_of_lt (by omega) (by omega)] at hmod
    rw [bitNat_false]
    omega
  | true =>
    have hlt : m < n := hcy.mp rfl
    rw [← Int.add_emod_right, Int.emod_eq_of_lt (by omega) (by omega)] at hmod
    rw [bitNat_true]
    omega

/-! ### 8-bit operations -/

theorem add8_exact (a b : Byte) (c : Bool) :
    (add8 a b c).res.toNat + 256 * bitNat (add8 a b c).cy = a.toNat + b.toNat + bitNat c := by
  have hc := bitNat_le_one c
  have hcy : (add8 a b c).cy = true ↔ 2 ^ 8 ≤ a.toNat + b.toNat + bitNat c := decide_eq_true_iff
  exact toNat_ofNat_add_carry (by omega) hcy

theorem add8_z_iff (a b : Byte) (c : Bool) : (add8 a b c).z = true ↔ (add8 a b c).res = 0 := beq_iff_eq

theorem add8_ac_iff (a b : Byte) (c : Bool) :
    (add8 a b c).ac = true ↔ 16 ≤ a.toNat % 16 + b.toNat % 16 + bitNat c := decide_eq_true_iff

/-- `sub8` takes the operand and the borrow off one after the other; their sum is one subtrahend. -/
theorem sub8_res (a b : Byte) (c : Bool) :
    (sub8 a b c).res = BitVec.ofInt 8 ((a.toNat : Int) - (b.toNat + bitNat c : Nat)) := by
  rw [sub8, Int.natCast_add, Int.sub_sub]

theorem sub8_cy_iff (a b : Byte) (c : Bool) : (sub8 a b c).cy = true ↔ a.toNat < b.toNat + bitNat c := by
  rw [sub8, decide_eq_true_iff]
  omega

theorem sub8_exact (a b : Byte) (c : Bool) :
    (sub8 a b c).res.toNat + b.toNat + bitNat c = a.toNat + 256 * bitNat (sub8 a b c).cy := by
  have hc := bitNat_le_one c
  rw [sub8_res, Nat.add_assoc]
  exact toNat_ofInt_add_subtrahend a.isLt (by omega) (sub8_cy_iff a b c)

theorem sub8_z_iff (a b : Byte) (c : Bool) : (sub8 a b c).z = true ↔ (sub8 a b c).res = 0 := beq_iff_eq

theorem sub8_ac_iff (a b : Byte) (c : Bool) :
    (sub8 a b c).ac = true ↔ a.toNat % 16 < b.toNat % 16 + bitNat c := by
  rw [sub8, decide_eq_true_iff]
  omega

/-! ### 16-bit operations -/

theorem add16_exact (a b : Word) :
    (add16 a b).res.toNat + 65536 * bitNat (add16 a b).cy = a.toNat + b.toNat := by
  have hcy : (add16 a b).cy = true ↔ 2 ^ 16 ≤ a.toNat + b.toNat := decide_eq_true_iff
  exact toNat_ofNat_add_carry (by omega) hcy

theorem add16_z_iff (a b : Word) : (add16 a b).z = true ↔ (add16 a b).res = 0 := beq_iff_eq

theorem sub16_cy_iff (a b : Word) : (sub16 a b).cy = true ↔ a.toNat < b.toNat := by
  rw [sub16, decide_eq_true_iff]
  omega

theorem sub16_exact (a b : Word) :
    (sub16 a b).res.toNat + b.toNat = a.toNat + 65536 * bitNat (sub16 a b).cy :=
  toNat_ofInt_add_subtrahend a.isLt b.isLt.le (sub16_cy_iff a b)

theorem sub16_z_iff (a b : Word) : (sub16 a b).z = true ↔ (sub16 a b).res = 0 := beq_iff_eq

/-- Settles O23: the truncation lemmas at widths 8 and 16, and the flags as `add8` to `sub16` compute them. -/
theorem addSubAreExact : Obligations.AddSubAreExact :=
  ⟨fun a b c => ⟨add8_exact a b c, add8_z_iff a b c, add8_ac_iff a b c⟩,
   fun a b c => ⟨sub8_exact a b c, sub8_z_iff a b c, sub8_ac_iff a b c⟩,
   fun a b => ⟨add16_exact a b, add16_z_iff a b⟩,
   fun a b => ⟨sub16_exact a b, sub16_z_iff a b⟩⟩

end Sys2Proof.Laws.AddSub
end

section

/-! # One-byte opcodes and instructions that only flow on (`30_encoding.md` R101, `10_state.md` R22)

What the decoder answers at an opcode of the 1st map, and what `exec` answers for an instruction that ends with
`PC <- next` and has not written PMC. -/

namespace Sys2Proof.Laws.Sequential
open Sys2Proof.Machine

/-! ### The 1st map -/

/-- The four first bytes that are no opcode of the 1st map: PREFIX, and 61H, 71H and 31H, which select the other maps. -/
def escapes : List Byte := [0x11, 0x61, 0x71, 0x31]

theorem decode_map1 {b : Byte} (hb : b ∉ escapes) (bs : List Byte) :
    decode (b :: bs) = addLen 1 ((gridCell map1 b).read (.unassignedMap1 b) bs) := by
  simp only [escapes, List.mem_cons, List.not_mem_nil, or_false, not_or] at hb
  obtain ⟨h11, h61, h71, h31⟩ := hb
  rw [decode, if_neg h11, decodePlain.eq_def]
  simp only [if_neg h61, if_neg h71, if_neg h31]

theorem decode_of_op0 {b : Byte} {i : Instr} {bs : List Byte} (hb : b ∉ escapes) (hcell : gridCell map1 b = .op0 i) :
    decode (b :: bs) = .ok (i, 1) := by
  rw [decode_map1 hb, hcell, Cell.read, addLen]

theorem decode_of_opW {b l h : Byte} {f : Word → Instr} {bs : List Byte} (hb : b ∉ escapes)
    (hcell : gridCell map1 b = .opW f) : decode (b :: l :: h :: bs) = .ok (f (word l h), 3) := by
  rw [decode_map1 hb, hcell, Cell.read, addLen]

/-! ### Completion -/

/-- `harm` is the meaning that `exec` gives the instruction, `n` its length. The latch `PmcSettle` is cleared because
`PmcWritten` has not moved (R48). -/
theorem exec_eq_next {i : Instr} {s t : State} {n : Nat} {inhibit : Bool}
    (harm : exec i s = outcome (retire i s t inhibit)) (hsize : i.size = n) (hkept : t.pmcWritten = s.pmcWritten)
    (hflow : flows i s) :
    exec i s = .next { t with pc := s.pc + BitVec.ofNat 20 n, intInhibit := inhibit, pmcSettle := false } := by
  have hend : retire i s t inhibit = .ok (finish s t (nextPc i s) inhibit) := retire_iff.mpr ⟨hflow, rfl⟩
  rw [harm, outcome_eq_next, hend, finish_of_kept hkept, nextPc, hsize]

end Sys2Proof.Laws.Sequential
end

section

/-! # 16-bit transfer between pairs (`41_mov16.md` R181, R183, R187 to R189)

Every form is a cell of the 1st map and writes pairs of the running bank only. -/

namespace Sys2Proof.Laws.WordTransfer
open Sys2Proof.Machine Sys2Proof.Laws.Sequential

/-! ### The cells of the three moves -/

theorem movwRI_cell (rp : Reg16) : gridCell map1 (0x30 + 2 * rp.code) = .opW (.movwRI rp) := by
  cases rp <;> rfl

/-- Column 1 of row 1 is the cell of PREFIX, so AX has no such form. -/
theorem movwAxR_cell {rp : Reg16} (hrp : rp ≠ .ax) : gridCell map1 (0x11 + 2 * rp.code) = .op0 (.movwAxR rp) := by
  cases rp with
  | ax => exact absurd rfl hrp
  | bc | de | hl => rfl

/-- Column 0 of row 1 is the cell of `ADDW SP, #byte`, so AX has no such form. -/
theorem movwRAx_cell {rp : Reg16} (hrp : rp ≠ .ax) : gridCell map1 (0x10 + 2 * rp.code) = .op0 (.movwRAx rp) := by
  cases rp with
  | ax => exact absurd rfl hrp
  | bc | de | hl => rfl

theorem movwRI_opcode (rp : Reg16) : 0x30 + 2 * rp.code ∉ escapes := by cases rp <;> decide

theorem movwAxR_opcode {rp : Reg16} (hrp : rp ≠ .ax) : 0x11 + 2 * rp.code ∉ escapes := by
  cases rp with
  | ax => exact absurd rfl hrp
  | bc | de | hl => decide

theorem movwRAx_opcode (rp : Reg16) : 0x10 + 2 * rp.code ∉ escapes := by cases rp <;> decide

/-! ### What the instructions do -/

theorem exec_movwRI (rp : Reg16) (d : Word) (s : State) (hflow : flows (.movwRI rp d) s) :
    exec (.movwRI rp d) s =
      .next { s.setR16 s.bank rp d with pc := s.pc + 3, intInhibit := false, pmcSettle := false } :=
  exec_eq_next rfl rfl (State.setR16_pmcWritten ..) hflow

theorem exec_movwAxR (rp : Reg16) (s : State) (hflow : flows (.movwAxR rp) s) :
    exec (.movwAxR rp) s =
      .next { s.setR16 s.bank .ax (s.r16 s.bank rp) with pc := s.pc + 1, intInhibit := false, pmcSettle := false } :=
  exec_eq_next rfl rfl (State.setR16_pmcWritten ..) hflow

theorem exec_movwRAx (rp : Reg16) (s : State) (hflow : flows (.movwRAx rp) s) :
    exec (.movwRAx rp) s =
      .next { s.setR16 s.bank rp (s.r16 s.bank .ax) with pc := s.pc + 1, intInhibit := false, pmcSettle := false } :=
  exec_eq_next rfl rfl (State.setR16_pmcWritten ..) hflow

/-- Both pairs are read before either is written. -/
theorem exec_xchw (rp : Reg16) (s : State) (hflow : flows (.xchw rp) s) :
    exec (.xchw rp) s =
      .next { (s.setR16 s.bank .ax (s.r16 s.bank rp)).setR16 s.bank rp (s.r16 s.bank .ax) with
        pc := s.pc + 1, intInhibit := false, pmcSettle := false } :=
  exec_eq_next rfl rfl (by simp only [State.setR16_pmcWritten]) hflow

theorem exec_onew (rp : Reg16) (s : State) (hflow : flows (.onew rp) s) :
    exec (.onew rp) s =
      .next { s.setR16 s.bank rp 0x0001 with pc := s.pc + 1, intInhibit := false, pmcSettle := false } :=
  exec_eq_next rfl rfl (State.setR16_pmcWritten ..) hflow

theorem exec_clrw (rp : Reg16) (s : State) (hflow : flows (.clrw rp) s) :
    exec (.clrw rp) s =
      .next { s.setR16 s.bank rp 0x0000 with pc := s.pc + 1, intInhibit := false, pmcSettle := false } :=
  exec_eq_next rfl rfl (State.setR16_pmcWritten ..) hflow

/-! ### The statements -/

/-- Settles O18: each opcode's cell of the 1st map, and the completion of an instruction that writes one pair. -/
theorem wordRegisterMoves : Obligations.WordRegisterMoves :=
  ⟨fun rp _ _ => decode_of_opW (movwRI_opcode rp) (movwRI_cell rp),
   fun _ hrp => decode_of_op0 (movwAxR_opcode hrp) (movwAxR_cell hrp),
   fun rp hrp => decode_of_op0 (movwRAx_opcode rp) (movwRAx_cell hrp),
   exec_movwRI, exec_movwAxR, exec_movwRAx⟩

/-- Settles O19: seven cells of the 1st map, and the completion of an instruction that writes pairs. -/
theorem wordExchangeOneClear : Obligations.WordExchangeOneClear :=
  ⟨⟨decode_of_op0 (by decide) rfl, decode_of_op0 (by decide) rfl, decode_of_op0 (by decide) rfl⟩,
   ⟨decode_of_op0 (by decide) rfl, decode_of_op0 (by decide) rfl⟩,
   ⟨decode_of_op0 (by decide) rfl, decode_of_op0 (by decide) rfl⟩,
   exec_xchw, exec_onew, exec_clrw⟩

end Sys2Proof.Laws.WordTransfer
end

section

/-! # Multiply (`43_alu16_mul.md` R234)

Why 16 bits hold the product of any two bytes, and what `MULU X` does with it. -/

namespace Sys2Proof.Laws.Multiply
open Sys2Proof.Machine Sys2Proof.Laws.Sequential

/-- The product of A and X as `execMulu` stores it, in 16 bits. -/
def axProduct (s : State) : Word := BitVec.ofNat 16 ((s.r8 s.bank .a).toNat * (s.r8 s.bank .x).toNat)

/-- The product of two numbers below `2 ^ 8` is below `2 ^ (8 * 2)`, so 16 bits drop nothing of it. -/
theorem axProduct_toNat (s : State) :
    (axProduct s).toNat = (s.r8 s.bank .a).toNat * (s.r8 s.bank .x).toNat := by
  rw [axProduct, BitVec.toNat_ofNat, Nat.mod_eq_of_lt BitVec.toNat_mul_toNat_lt]

theorem exec_mulu (s : State) (hflow : flows .mulu s) :
    exec .mulu s =
      .next { s.setR16 s.bank .ax (axProduct s) with pc := s.pc + 1, intInhibit := false, pmcSettle := false } :=
  exec_eq_next rfl rfl (State.setR16_pmcWritten ..) hflow

/-- Settles O28: the cell D6H of the 1st map, and the completion of an instruction that writes AX, with the 16 bits that
hold the product. -/
theorem multiplyUnsigned : Obligations.MultiplyUnsigned :=
  ⟨decode_of_op0 (by decide) rfl, fun s hflow => ⟨axProduct s, axProduct_toNat s, exec_mulu s hflow⟩⟩

end Sys2Proof.Laws.Multiply
end

section

/-! # Shifts and rotates (`44_incdec_shift_rot.md` R240, R245 to R255)

The cells of the 2nd and the 4th map, what the shared shapes `execShift8` and `execShift16` answer, and the model's rotates
as rotations of 8, 9 and 17 bits. -/

namespace Sys2Proof.Laws.ShiftRotate
open Sys2Proof.Machine Sys2Proof.Laws.Sequential

/-! ### The 2nd and the 4th map -/

theorem decode_of_map2 {b : Byte} {i : Instr} (hcell : gridCell map2 b = .op0 i) : decode [0x61, b] = .ok (i, 2) := by
  rw [decode, if_neg (by decide), decodePlain.eq_def]
  simp only [if_pos, hcell, Cell.read, addLen]

theorem decode_of_map4 {b : Byte} {i : Instr} (hcell : map4Cell b = .op0 i) : decode [0x31, b] = .ok (i, 2) := by
  have h61 : (0x31 : Byte) ≠ 0x61 := by decide
  have h71 : (0x31 : Byte) ≠ 0x71 := by decide
  rw [decode, if_neg (by decide), decodePlain.eq_def]
  simp only [if_neg h61, if_neg h71, if_pos, hcell, Cell.read, addLen]

/-- In the 4th map the high nibble of the second byte is the count and the low nibble is the column (R126). -/
theorem map4Cell_append (c k : BitVec 4) : map4Cell (c ++ k) = cellAt (map4 c) k.toNat := by
  have hrow : (c ++ k).extractLsb' 4 4 = c := BitVec.extractLsb'_append_eq_left
  have hcol : (c ++ k).toNat % 16 = k.toNat :=
    calc (c ++ k).toNat % 16
      _ = ((c ++ k).setWidth 4).toNat := (BitVec.toNat_setWidth 4 (c ++ k)).symm
      _ = k.toNat := by rw [BitVec.setWidth_append_eq_right]
  rw [map4Cell, hrow, hcol]

/-- `hcell` says which shift stands in column `k` of the 4th map; `hok` that it has the count `c`. -/
theorem decode_shift {c k : BitVec 4} {ok : Bool} {i : Instr} (hok : ok = true)
    (hcell : cellAt (map4 c) k.toNat = shiftCell ok i) : decode [0x31, c ++ k] = .ok (i, 2) :=
  decode_of_map4 (by rw [map4Cell_append, hcell, shiftCell, if_pos hok])

theorem cntOk8_of_bounds {c : BitVec 4} (hlo : 1 ≤ c) (hhi : c ≤ 7) : cntOk8 c = true := by
  simp only [cntOk8, Bool.and_eq_true, decide_eq_true_eq]
  exact ⟨hlo, hhi⟩

theorem cntOk16_of_pos {c : BitVec 4} (hlo : 1 ≤ c) : cntOk16 c = true := decide_eq_true hlo

/-! ### The shared shapes -/

theorem exec_of_shift8 {i : Instr} {r : Reg8} {v : Byte} {cy : Bool} {s : State}
    (harm : exec i s = outcome (execShift8 i r (v, cy) s)) (hsize : i.size = 2) (hflow : flows i s) :
    exec i s =
      .next { s.setR8 s.bank r v with
        psw := setCY s.psw cy, pc := s.pc + 2, intInhibit := false, pmcSettle := false } :=
  exec_eq_next harm hsize (by simp only [State.setCy_pmcWritten, State.setR8_pmcWritten]) hflow

theorem exec_of_shift16 {i : Instr} {rp : Reg16} {v : Word} {cy : Bool} {s : State}
    (harm : exec i s = outcome (execShift16 i rp (v, cy) s)) (hsize : i.size = 2) (hflow : flows i s) :
    exec i s =
      .next { s.setR16 s.bank rp v with
        psw := setCY s.psw cy, pc := s.pc + 2, intInhibit := false, pmcSettle := false } :=
  exec_eq_next harm hsize (by simp only [State.setCy_pmcWritten, State.setR16_pmcWritten]) hflow

/-! ### The rotates as rotations -/

theorem rorByte_eq (v : Byte) : rorByte v = (v.rotateRight 1, v.getLsbD 0) := by
  have hbit0 : (v &&& 1) <<< 7 = v <<< 7 := by
    have hmask : (1 : Byte) <<< 7 = BitVec.allOnes 8 <<< 7 := by decide
    rw [BitVec.shiftLeft_and_distrib, hmask, BitVec.and_comm, BitVec.allOnes_shiftLeft_and_shiftLeft]
  rw [rorByte, hbit0, BitVec.rotateRight_def]

theorem rolByte_eq (v : Byte) : rolByte v = (v.rotateLeft 1, v.getLsbD 7) := by
  rw [rolByte, BitVec.rotateLeft_def]

theorem shiftLeft_one_eq_append {w : Nat} (v : BitVec (w + 1)) : v <<< 1 = v.extractLsb' 0 w ++ 0#1 := by
  ext i hi
  cases i with
  | zero => simp [BitVec.getElem_append]
  | succ n =>
    have hbit : v.getLsbD n = v[n] := BitVec.getLsbD_eq_getElem _
    simp [BitVec.getElem_append, hbit]

theorem ofNat_bitNat_eq_append (w : Nat) (c : Bool) : BitVec.ofNat (w + 1) (bitNat c) = 0#w ++ BitVec.ofBool c := by
  apply BitVec.eq_of_toNat_eq
  cases c with
  | false => simp [bitNat]
  | true => simp [bitNat]

/-- A shift to the left by one that fills CY in: the upper bit is gone and CY is bit 0. -/
theorem shiftLeft_or_bitNat {w : Nat} (v : BitVec (w + 1)) (c : Bool) :
    v <<< 1 ||| BitVec.ofNat (w + 1) (bitNat c) = v.extractLsb' 0 w ++ BitVec.ofBool c := by
  rw [shiftLeft_one_eq_append, ofNat_bitNat_eq_append, BitVec.or_append, BitVec.or_zero, BitVec.zero_or]

/-- A shift to the right by one that fills CY in: bit 0 is gone and CY is bit 7. -/
theorem shiftRight_or_bitNat (v : Byte) (c : Bool) :
    v >>> 1 ||| BitVec.ofNat 8 (bitNat c) <<< 7 = BitVec.ofBool c ++ v.extractLsb' 1 7 := by
  have hshift : v >>> 1 = 0#1 ++ v.extractLsb' 1 7 := BitVec.ushiftRight_eq_extractLsb'_of_lt (by decide)
  have hcarry : BitVec.ofNat 8 (bitNat c) <<< 7 = BitVec.ofBool c ++ 0#7 := by cases c <;> rfl
  rw [hshift, hcarry, BitVec.or_append, BitVec.zero_or, BitVec.or_zero]

theorem rorcByte_eq (v : Byte) (c : Bool) :
    rorcByte v c = (BitVec.ofBool c ++ v.extractLsb' 1 7, v.getLsbD 0) := by
  rw [rorcByte, shiftRight_or_bitNat]

theorem rolcByte_eq (v : Byte) (c : Bool) :
    rolcByte v c = (v.extractLsb' 0 7 ++ BitVec.ofBool c, v.getLsbD 7) := by
  rw [rolcByte, shiftLeft_or_bitNat]

theorem rolcWord_eq (v : Word) (c : Bool) :
    rolcWord v c = (v.extractLsb' 0 15 ++ BitVec.ofBool c, v.getLsbD 15) := by
  rw [rolcWord, shiftLeft_or_bitNat]

/-! ### The statements -/

/-- Settles O31: the columns 7 to F of the 4th map at the counts they have, and the shared shapes, whose value and CY are
by definition those of the shift. -/
theorem shifts : Obligations.Shifts :=
  ⟨fun _ hlo hhi =>
    have hok := cntOk8_of_bounds hlo hhi
    ⟨decode_shift hok rfl, decode_shift hok rfl, decode_shift hok rfl, decode_shift hok rfl, decode_shift hok rfl⟩,
   fun _ hlo =>
    have hok := cntOk16_of_pos hlo
    ⟨decode_shift hok rfl, decode_shift hok rfl, decode_shift hok rfl, decode_shift hok rfl⟩,
   fun _ _ => exec_of_shift8 rfl rfl, fun _ _ => exec_of_shift8 rfl rfl, fun _ _ _ => exec_of_shift8 rfl rfl,
   fun _ _ => exec_of_shift16 rfl rfl, fun _ _ => exec_of_shift16 rfl rfl, fun _ _ _ => exec_of_shift16 rfl rfl⟩

/-- Settles O33: six cells of the 2nd map, and the shared shapes with each rotate read as a rotation of 8, 9 or 17
bits. -/
theorem rotates : Obligations.Rotates :=
  ⟨⟨decode_of_map2 rfl, decode_of_map2 rfl, decode_of_map2 rfl, decode_of_map2 rfl, decode_of_map2 rfl,
    decode_of_map2 rfl⟩,
   fun _ => exec_of_shift8 (by rw [← rorByte_eq]; rfl) rfl,
   fun _ => exec_of_shift8 (by rw [← rolByte_eq]; rfl) rfl,
   fun _ => exec_of_shift8 (by rw [← rorcByte_eq]; rfl) rfl,
   fun _ => exec_of_shift8 (by rw [← rolcByte_eq]; rfl) rfl,
   fun _ _ => exec_of_shift16 (by rw [← rolcWord_eq]; rfl) rfl⟩

end Sys2Proof.Laws.ShiftRotate
end

section

/-! # The carry bit (`45_bit.md` R278 to R280)

The cells of the 3rd map, the three values that CY takes as masks on PSW, and what an instruction answers that writes CY
alone. -/

namespace Sys2Proof.Laws.CarryBit
open Sys2Proof.Machine Sys2Proof.Laws.Sequential

/-! ### The 3rd map -/

theorem decode_of_map3 {b : Byte} {i : Instr} (hcell : map3Cell b = .op0 i) : decode [0x71, b] = .ok (i, 2) := by
  have h61 : (0x71 : Byte) ≠ 0x61 := by decide
  rw [decode, if_neg (by decide), decodePlain.eq_def]
  simp only [if_neg h61, if_pos, hcell, Cell.read, addLen]

/-! ### Writes of CY as masks -/

theorem setCY_true (p : Byte) : setCY p true = p ||| 0x01 := rfl

theorem setCY_false (p : Byte) : setCY p false = p &&& 0xFE := rfl

/-- To write the complement of a bit is to flip it: the mask clears a bit that is 1 and sets one that is 0. -/
theorem setBit8_not_getLsbD (v : Byte) (n : Nat) : setBit8 v n (!v.getLsbD n) = v ^^^ (1#8 <<< n) := by
  rw [setBit8, ← BitVec.twoPow_eq]
  ext j hj
  by_cases hjn : j = n
  · subst hjn
    cases hbit : v[j] <;> simp [BitVec.getLsbD_eq_getElem hj, hbit]
  · cases hbit : v.getLsbD n <;> simp [BitVec.getElem_twoPow, hjn]

theorem setCY_not_pswCY (p : Byte) : setCY p (!pswCY p) = p ^^^ 0x01 := setBit8_not_getLsbD p 0

/-! ### Completion -/

/-- `harm` is the meaning that `exec` gives the instruction, `p` the PSW with its new CY. -/
theorem exec_of_setCy {i : Instr} {cy : Bool} {p : Byte} {s : State}
    (harm : exec i s = outcome (retire i s (s.setCy cy) false)) (hsize : i.size = 2) (hpsw : setCY s.psw cy = p)
    (hflow : flows i s) :
    exec i s = .next { s with psw := p, pc := s.pc + 2, intInhibit := false, pmcSettle := false } := by
  subst hpsw
  exact exec_eq_next harm hsize (State.setCy_pmcWritten ..) hflow

/-! ### The statement -/

/-- Settles O37: three cells of the 3rd map, and the completion of an instruction that writes CY, with 1, 0 and the
complement of CY read as a set, a cleared and a flipped bit 0 of PSW. -/
theorem carryBitInstructions : Obligations.CarryBitInstructions :=
  ⟨⟨decode_of_map3 rfl, decode_of_map3 rfl, decode_of_map3 rfl⟩,
   fun s => exec_of_setCy rfl rfl (setCY_true s.psw),
   fun s => exec_of_setCy rfl rfl (setCY_false s.psw),
   fun s => exec_of_setCy rfl rfl (setCY_not_pswCY s.psw)⟩

end Sys2Proof.Laws.CarryBit
end

section

/-! # PUSH and POP (`46_call_ret_stack.md` R299 to R302)

The frame of two bytes: what a push of an instruction leaves behind where the frame is RAM outside the fetch window, when a
pop passes its range check, and what the four instructions make of the bytes. -/

namespace Sys2Proof.Laws.PushPop
open Sys2Proof.Machine Sys2Proof.Laws.Sequential Sys2Proof.Laws.ShiftRotate

/-! ### The cells of row C -/

theorem pushR_cell (rp : Reg16) : gridCell map1 (0xC1 + 2 * rp.code) = .op0 (.pushR rp) := by cases rp <;> rfl

theorem popR_cell (rp : Reg16) : gridCell map1 (0xC0 + 2 * rp.code) = .op0 (.popR rp) := by cases rp <;> rfl

theorem pushR_opcode (rp : Reg16) : 0xC1 + 2 * rp.code ∉ escapes := by cases rp <;> decide

theorem popR_opcode (rp : Reg16) : 0xC0 + 2 * rp.code ∉ escapes := by cases rp <;> decide

/-! ### The frame of two bytes -/

/-- What `push2` leaves behind: `hi` at SP-1 and `lo` at SP-2, a little-endian word at the new SP (R35). -/
def pushed2 (s : State) (lo hi : Byte) : State :=
  { s with mem := memWrite (stackAddr s (-2)) lo (memWrite (stackAddr s (-1)) hi s.mem), sp := s.sp - 2 }

theorem stackOk_frame2 {s : State} : stackOk s [-1, -2] = true ↔ ∀ a ∈ frame2 s, inStack s.product a = true := by
  simp [stackOk_iff, frame2]

theorem stackStale_frame2 {i : Instr} {s : State} :
    stackStale s (nextPc i s) [-1, -2] = false ↔ fresh i s (frame2 s) := by
  simp [stackStale, fresh, frame2]

theorem pushing_push2 {i : Instr} {s : State} (lo hi : Byte) (hin : ∀ a ∈ frame2 s, inStack s.product a = true)
    (hfresh : fresh i s (frame2 s)) :
    pushing (nextPc i s) [-1, -2] (push2 lo hi) s = .ok (pushed2 s lo hi) :=
  pushing_iff.mpr ⟨stackStale_frame2.mpr hfresh, push2_iff.mpr ⟨stackOk_frame2.mpr hin, rfl⟩⟩

/-- The range check of a pop is on the bytes at SP and SP+1 (log 15). -/
theorem stackOk_pop {s : State} (h0 : inStack s.product (stackAddr s 0) = true)
    (h1 : inStack s.product (stackAddr s 1) = true) : stackOk s [0, 1] = true := by
  simp only [stackOk, List.all_cons, List.all_nil, h0, h1, Bool.and_self]

/-! ### What the instructions do -/

/-- `harm` is the meaning that `exec` gives a push of the bytes `lo` and `hi`, `n` the instruction's length. -/
theorem exec_of_push2 {i : Instr} {s : State} {lo hi : Byte} {n : Nat}
    (harm : exec i s = outcome (pushing (nextPc i s) [-1, -2] (push2 lo hi) s >>= fun t => retire i s t false))
    (hsize : i.size = n) (hin : ∀ a ∈ frame2 s, inStack s.product a = true) (hfresh : fresh i s (frame2 s))
    (hflow : flows i s) :
    exec i s =
      .next { pushed2 s lo hi with pc := s.pc + BitVec.ofNat 20 n, intInhibit := false, pmcSettle := false } := by
  rw [pushing_push2 lo hi hin hfresh] at harm
  exact exec_eq_next harm hsize rfl hflow

theorem exec_pushR (rp : Reg16) (s : State) (hin : ∀ a ∈ frame2 s, inStack s.product a = true)
    (hfresh : fresh (.pushR rp) s (frame2 s)) (hflow : flows (.pushR rp) s) :
    exec (.pushR rp) s =
      .next { pushed2 s (lo8 (s.r16 s.bank rp)) (hi8 (s.r16 s.bank rp)) with
        pc := s.pc + 1, intInhibit := false, pmcSettle := false } := by
  rw [State.r16, lo8_word, hi8_word]
  exact exec_of_push2 rfl rfl hin hfresh hflow

theorem exec_popPsw (s : State) (p : Byte) (hp : memRead (stackAddr s 1) s.mem = some p)
    (h0 : inStack s.product (stackAddr s 0) = true) (h1 : inStack s.product (stackAddr s 1) = true)
    (hflow : flows .popPsw s) :
    exec .popPsw s =
      .next { s with psw := p, sp := s.sp + 2, pc := s.pc + 2, intInhibit := true, pmcSettle := false } := by
  have harm : exec .popPsw s = outcome (retire .popPsw s { s with sp := s.sp + 2, psw := p } true) := by
    change execPopPsw s = _
    rw [execPopPsw, if_pos (stackOk_pop h0 h1), popByte_iff.mpr hp]
    rfl
  exact exec_eq_next harm rfl rfl hflow

/-- The model moves SP before it writes the pair; neither write sees the other. -/
theorem exec_popR (rp : Reg16) (s : State) (l h : Byte) (hl : memRead (stackAddr s 0) s.mem = some l)
    (hh : memRead (stackAddr s 1) s.mem = some h) (h0 : inStack s.product (stackAddr s 0) = true)
    (h1 : inStack s.product (stackAddr s 1) = true) (hflow : flows (.popR rp) s) :
    exec (.popR rp) s =
      .next { s.setR16 s.bank rp (h ++ l) with
        sp := s.sp + 2, pc := s.pc + 1, intInhibit := false, pmcSettle := false } := by
  have harm : exec (.popR rp) s =
      outcome (retire (.popR rp) s ({ s with sp := s.sp + 2 }.setR16 s.bank rp (word l h)) false) := by
    change execPopR rp s = _
    rw [execPopR, if_pos (stackOk_pop h0 h1), popByte_iff.mpr hl, popByte_iff.mpr hh]
    rfl
  exact exec_eq_next harm rfl (State.setR16_pmcWritten ..) hflow

/-! ### The statement -/

/-- Settles O42: two cells of the 2nd map and eight of row C of the 1st, a push of the bytes that the frame takes, and
pops whose range check and reads succeed. -/
theorem pushAndPop : Obligations.PushAndPop :=
  ⟨⟨decode_of_map2 rfl, decode_of_map2 rfl⟩,
   fun rp => ⟨decode_of_op0 (pushR_opcode rp) (pushR_cell rp), decode_of_op0 (popR_opcode rp) (popR_cell rp)⟩,
   fun _ => exec_of_push2 rfl rfl, exec_pushR, exec_popPsw, exec_popR⟩

end Sys2Proof.Laws.PushPop
end

section

/-! # NOP (`48_cpu_control.md` R351)

The cell 00H of the 1st map, and the completion of an instruction that computes no next state of its own. -/

namespace Sys2Proof.Laws.CpuControl
open Sys2Proof.Machine Sys2Proof.Laws.Sequential

theorem decode_nop : decode [0x00] = .ok (.nop, 1) := decode_of_op0 (by decide) rfl

theorem exec_nop (s : State) (hflow : flows .nop s) :
    exec .nop s = .next { s with pc := s.pc + 1, intInhibit := false, pmcSettle := false } :=
  have harm : exec .nop s = outcome (retire .nop s s false) := rfl
  exec_eq_next harm rfl rfl hflow

/-- Settles O50: the first cell of the 1st map, and the completion of NOP from the state it began in. -/
theorem nopOnlyAdvances : Obligations.NopOnlyAdvances :=
  ⟨decode_nop, exec_nop⟩

end Sys2Proof.Laws.CpuControl
end

section

/-! # Decoding an encoding gives the instruction back (`30_encoding.md` R100 to R131)

`Takes` says which operand bytes a cell of a map turns into which instruction, `Reads` which opcode and operand bytes one of
the four maps does. An encoding is such a byte string, or 11H and one whose instruction has the wanted ES form. -/

namespace Sys2Proof.Laws.Decoding
open Sys2Proof.Machine Sys2Proof.Laws.Sequential Sys2Proof.Laws.ShiftRotate

set_option Elab.async false

/-! ### Cells -/

/-- The cell reads the operand bytes as the instruction. -/
inductive Takes : Cell → List Byte → Instr → Prop where
  | op0 (i : Instr) : Takes (.op0 i) [] i
  | opB (f : Byte → Instr) (b : Byte) : Takes (.opB f) [b] (f b)
  | opW (f : Word → Instr) (w : Word) : Takes (.opW f) (wordBytes w) (f w)
  | opBB (f : Byte → Byte → Instr) (a b : Byte) : Takes (.opBB f) [a, b] (f a b)
  | opBW (f : Byte → Word → Instr) (b : Byte) (w : Word) : Takes (.opBW f) (b :: wordBytes w) (f b w)
  | opWB (f : Word → Byte → Instr) (w : Word) (b : Byte) : Takes (.opWB f) (wordBytes w ++ [b]) (f w b)
  | opA (f : Addr → Instr) (a : Addr) : Takes (.opA f) (addrBytes a) (f a)

/-- The bytes behind the operand bytes are not looked at. -/
theorem Takes.read {c : Cell} {bs : List Byte} {i : Instr} (h : Takes c bs i) (err : DecodeError) (rest : List Byte) :
    c.read err (bs ++ rest) = .ok (i, bs.length) := by
  cases h with
  | op0 => rfl
  | opB => rfl
  | opBB => rfl
  | opW f w => exact congrArg (fun x => Except.ok (f x, 2)) (word_lo_hi w)
  | opBW f b w => exact congrArg (fun x => Except.ok (f b x, 3)) (word_lo_hi w)
  | opWB f w b => exact congrArg (fun x => Except.ok (f x b, 3)) (word_lo_hi w)
  | opA f a => exact congrArg (fun x => Except.ok (f x, 3)) (addrOf_parts a)

/-! ### Maps -/

/-- One of the four maps reads the opcode and operand bytes as the instruction. -/
inductive Reads : List Byte → Instr → Prop where
  | map1 {b : Byte} {bs : List Byte} {i : Instr} (hb : b ∉ escapes) (h : Takes (gridCell map1 b) bs i) :
      Reads (b :: bs) i
  | map2 {b : Byte} {bs : List Byte} {i : Instr} (h : Takes (gridCell map2 b) bs i) : Reads (0x61 :: b :: bs) i
  | map3 {b : Byte} {bs : List Byte} {i : Instr} (h : Takes (map3Cell b) bs i) : Reads (0x71 :: b :: bs) i
  | map4 {b : Byte} {bs : List Byte} {i : Instr} (h : Takes (map4Cell b) bs i) : Reads (0x31 :: b :: bs) i

theorem Reads.decodePlain {bs : List Byte} {i : Instr} (h : Reads bs i) (rest : List Byte) :
    decodePlain (bs ++ rest) = .ok (i, bs.length) := by
  cases h with
  | map1 hb h =>
    simp only [escapes, List.mem_cons, List.not_mem_nil, or_false, not_or] at hb
    obtain ⟨-, h61, h71, h31⟩ := hb
    simp only [List.cons_append, Sys2Proof.decodePlain, if_neg h61, if_neg h71, if_neg h31, h.read, addLen,
      List.length_cons]
  | map2 h => simp only [List.cons_append, Sys2Proof.decodePlain, if_pos, h.read, addLen, List.length_cons]
  | map3 h =>
    have h61 : (0x71 : Byte) ≠ 0x61 := by decide
    simp only [List.cons_append, Sys2Proof.decodePlain, if_neg h61, if_pos, h.read, addLen, List.length_cons]
  | map4 h =>
    have h61 : (0x31 : Byte) ≠ 0x61 := by decide
    have h71 : (0x31 : Byte) ≠ 0x71 := by decide
    simp only [List.cons_append, Sys2Proof.decodePlain, if_neg h61, if_neg h71, if_pos, h.read, addLen,
      List.length_cons]

/-- No opcode of the maps is the PREFIX byte. -/
theorem Reads.decode {bs : List Byte} {i : Instr} (h : Reads bs i) (rest : List Byte) :
    decode (bs ++ rest) = .ok (i, bs.length) := by
  have hplain := h.decodePlain rest
  cases h with
  | @map1 b _ _ hb h =>
    have h11 : b ≠ 0x11 := by rintro rfl; exact hb List.mem_cons_self
    rw [List.cons_append, Sys2Proof.decode, if_neg h11]
    exact hplain
  | map2 h => exact hplain
  | map3 h => exact hplain
  | map4 h => exact hplain

/-- Behind 11H the same bytes are the ES form of the instruction (R103). -/
theorem Reads.decode_es {bs : List Byte} {i j : Instr} (h : Reads bs i) (hes : i.withEs = some j) (rest : List Byte) :
    Sys2Proof.decode (0x11 :: bs ++ rest) = .ok (j, bs.length + 1) := by
  rw [List.cons_append, Sys2Proof.decode, if_pos rfl, h.decodePlain rest]
  simp only [hes]

/-! ### What it is to decode an encoding -/

/-- The decoder gives the instruction back from its encoding, whatever bytes follow. -/
def Decodes (i : Instr) : Prop := ∀ rest : List Byte, decode (encode i ++ rest) = .ok (i, i.size)

theorem Decodes.of_reads {i : Instr} (h : Reads (encode i) i) : Decodes i := h.decode

theorem Decodes.of_es {i j : Instr} {bs : List Byte} (henc : encode j = 0x11 :: bs) (h : Reads bs i)
    (hes : i.withEs = some j) : Decodes j := by
  intro rest
  rw [Instr.size, henc]
  exact h.decode_es hes rest

/-- The operand without ES before it. -/
def noEs : MemOp → MemOp
  | .saddr off => .saddr off
  | .sfr off => .sfr off
  | .abs _ w => .abs false w
  | .de _ => .de false
  | .hl _ => .hl false
  | .deOff _ off => .deOff false off
  | .hlOff _ off => .hlOff false off
  | .spOff off => .spOff off
  | .hlB _ => .hlB false
  | .hlC _ => .hlC false
  | .wordB _ w => .wordB false w
  | .wordC _ w => .wordC false w
  | .wordBC _ w => .wordBC false w

theorem noEs_of_plain {m : MemOp} (h : m.es = false) : noEs m = m := by
  cases m with
  | saddr off | sfr off | spOff off => rfl
  | abs es _ | deOff es _ | hlOff es _ | wordB es _ | wordC es _ | wordBC es _ | de es | hl es | hlB es | hlC es =>
    obtain rfl : es = false := h
    rfl

theorem withEs_noEs {m : MemOp} (h : m.es = true) : (noEs m).withEs = some m := by
  cases m with
  | saddr off | sfr off | spOff off => cases h
  | abs es _ | deOff es _ | hlOff es _ | wordB es _ | wordC es _ | wordBC es _ | de es | hl es | hlB es | hlC es =>
    obtain rfl : es = true := h
    rfl

/-- A memory form decodes with and without PREFIX, once the maps read its bytes as the form without ES. -/
theorem Decodes.of_memForm {m : MemOp} {mk : MemOp → Instr} {op : MemClass → List Byte} {tail : List Byte}
    (henc : encode (mk m) = memForm m op ++ tail) (hes : (mk (noEs m)).withEs = (noEs m).withEs.map mk)
    (h : Reads (op m.cls ++ m.bytes ++ tail) (mk (noEs m))) : Decodes (mk m) := by
  cases hm : m.es with
  | false =>
    rw [noEs_of_plain hm] at h
    have hbytes : encode (mk m) = op m.cls ++ m.bytes ++ tail := by
      simp only [henc, memForm, hm, esByte, Bool.false_eq_true, if_false, List.nil_append]
    exact .of_reads (hbytes ▸ h)
  | true =>
    rw [withEs_noEs hm] at hes
    have hbytes : encode (mk m) = 0x11 :: (op m.cls ++ m.bytes ++ tail) := by
      simp only [henc, memForm, hm, esByte, if_true, List.cons_append, List.nil_append]
    exact .of_es hbytes h hes

end Sys2Proof.Laws.Decoding
end

section

/-! # Every well-formed instruction decodes from its encoding (`30_encoding.md` R123 to R131)

For each opcode table of `Decode.lean` the cells that its bytes name, then the case of every instruction. -/

namespace Sys2Proof.Laws.Decoding
open Sys2Proof.Machine Sys2Proof.Laws.Sequential Sys2Proof.Laws.ShiftRotate

set_option Elab.async false

/-! ### Memory operands by their opcode tables -/

theorem reads_movMI (d : Byte) {m : MemOp} (hin : (Instr.movMI m d).wf = true) :
    Reads (opMovMI m.cls ++ m.bytes ++ [d]) (.movMI (noEs m) d) := by
  cases m with
  | saddr off => exact .map1 (by decide) (.opBB _ off d)
  | sfr off => exact .map1 (by decide) (.opBB _ off d)
  | abs _ w => exact .map1 (by decide) (.opWB _ w d)
  | deOff _ off => exact .map1 (by decide) (.opBB _ off d)
  | hlOff _ off => exact .map1 (by decide) (.opBB _ off d)
  | spOff off => exact .map1 (by decide) (.opBB _ off d)
  | wordB _ w => exact .map1 (by decide) (.opWB _ w d)
  | wordC _ w => exact .map1 (by decide) (.opWB _ w d)
  | wordBC _ w => exact .map1 (by decide) (.opWB _ w d)
  | de | hl | hlB | hlC => exact absurd hin Bool.false_ne_true

theorem reads_movAM (m : MemOp) : Reads (opMovAM m.cls ++ m.bytes) (.movAM (noEs m)) := by
  cases m with
  | saddr off => exact .map1 (by decide) (.opB _ off)
  | sfr off => exact .map1 (by decide) (.opB _ off)
  | abs _ w => exact .map1 (by decide) (.opW _ w)
  | de => exact .map1 (by decide) (.op0 _)
  | hl => exact .map1 (by decide) (.op0 _)
  | deOff _ off => exact .map1 (by decide) (.opB _ off)
  | hlOff _ off => exact .map1 (by decide) (.opB _ off)
  | spOff off => exact .map1 (by decide) (.opB _ off)
  | hlB => exact .map2 (.op0 _)
  | hlC => exact .map2 (.op0 _)
  | wordB _ w => exact .map1 (by decide) (.opW _ w)
  | wordC _ w => exact .map1 (by decide) (.opW _ w)
  | wordBC _ w => exact .map1 (by decide) (.opW _ w)

theorem reads_movMA (m : MemOp) : Reads (opMovMA m.cls ++ m.bytes) (.movMA (noEs m)) := by
  cases m with
  | saddr off => exact .map1 (by decide) (.opB _ off)
  | sfr off => exact .map1 (by decide) (.opB _ off)
  | abs _ w => exact .map1 (by decide) (.opW _ w)
  | de => exact .map1 (by decide) (.op0 _)
  | hl => exact .map1 (by decide) (.op0 _)
  | deOff _ off => exact .map1 (by decide) (.opB _ off)
  | hlOff _ off => exact .map1 (by decide) (.opB _ off)
  | spOff off => exact .map1 (by decide) (.opB _ off)
  | hlB => exact .map2 (.op0 _)
  | hlC => exact .map2 (.op0 _)
  | wordB _ w => exact .map1 (by decide) (.opW _ w)
  | wordC _ w => exact .map1 (by decide) (.opW _ w)
  | wordBC _ w => exact .map1 (by decide) (.opW _ w)

theorem reads_xchAM {m : MemOp} (hin : (Instr.xchAM m).wf = true) :
    Reads (opXchAM m.cls ++ m.bytes) (.xchAM (noEs m)) := by
  cases m with
  | saddr off => exact .map2 (.opB _ off)
  | sfr off => exact .map2 (.opB _ off)
  | abs _ w => exact .map2 (.opW _ w)
  | de => exact .map2 (.op0 _)
  | hl => exact .map2 (.op0 _)
  | deOff _ off => exact .map2 (.opB _ off)
  | hlOff _ off => exact .map2 (.opB _ off)
  | hlB => exact .map2 (.op0 _)
  | hlC => exact .map2 (.op0 _)
  | spOff | wordB | wordC | wordBC => exact absurd hin Bool.false_ne_true

theorem reads_movwMI (d : Word) {m : MemOp} (hin : (Instr.movwMI m d).wf = true) :
    Reads (opMovwMI m.cls ++ m.bytes ++ wordBytes d) (.movwMI (noEs m) d) := by
  cases m with
  | saddr off => exact .map1 (by decide) (.opBW _ off d)
  | sfr off => exact .map1 (by decide) (.opBW _ off d)
  | abs | de | hl | deOff | hlOff | spOff | hlB | hlC | wordB | wordC | wordBC =>
    exact absurd hin Bool.false_ne_true

theorem reads_movwAxM {m : MemOp} (hin : (Instr.movwAxM m).wf = true) :
    Reads (opMovwAxM m.cls ++ m.bytes) (.movwAxM (noEs m)) := by
  cases m with
  | saddr off => exact .map1 (by decide) (.opB _ off)
  | sfr off => exact .map1 (by decide) (.opB _ off)
  | abs _ w => exact .map1 (by decide) (.opW _ w)
  | de => exact .map1 (by decide) (.op0 _)
  | hl => exact .map1 (by decide) (.op0 _)
  | deOff _ off => exact .map1 (by decide) (.opB _ off)
  | hlOff _ off => exact .map1 (by decide) (.opB _ off)
  | spOff off => exact .map1 (by decide) (.opB _ off)
  | wordB _ w => exact .map1 (by decide) (.opW _ w)
  | wordC _ w => exact .map1 (by decide) (.opW _ w)
  | wordBC _ w => exact .map1 (by decide) (.opW _ w)
  | hlB | hlC => exact absurd hin Bool.false_ne_true

theorem reads_movwMAx {m : MemOp} (hin : (Instr.movwMAx m).wf = true) :
    Reads (opMovwMAx m.cls ++ m.bytes) (.movwMAx (noEs m)) := by
  cases m with
  | saddr off => exact .map1 (by decide) (.opB _ off)
  | sfr off => exact .map1 (by decide) (.opB _ off)
  | abs _ w => exact .map1 (by decide) (.opW _ w)
  | de => exact .map1 (by decide) (.op0 _)
  | hl => exact .map1 (by decide) (.op0 _)
  | deOff _ off => exact .map1 (by decide) (.opB _ off)
  | hlOff _ off => exact .map1 (by decide) (.opB _ off)
  | spOff off => exact .map1 (by decide) (.opB _ off)
  | wordB _ w => exact .map1 (by decide) (.opW _ w)
  | wordC _ w => exact .map1 (by decide) (.opW _ w)
  | wordBC _ w => exact .map1 (by decide) (.opW _ w)
  | hlB | hlC => exact absurd hin Bool.false_ne_true

/-- The forms that have saddr(p) and !addr16 alone: two cells of the 1st map. -/
theorem reads_saddrAbs {s a : Byte} {mk : MemOp → Instr} (hs : s ∉ escapes) (ha : a ∉ escapes)
    (hsaddr : gridCell map1 s = .opB fun off => mk (.saddr off))
    (habs : gridCell map1 a = .opW fun w => mk (.abs false w)) {m : MemOp} (hin : m.isIn [.saddr, .abs] = true) :
    Reads (opSaddrAbs s a m.cls ++ m.bytes) (mk (noEs m)) := by
  cases m with
  | saddr off => exact .map1 hs (hsaddr ▸ .opB _ off)
  | abs _ w => exact .map1 ha (habs ▸ .opW _ w)
  | sfr | de | hl | deOff | hlOff | spOff | hlB | hlC | wordB | wordC | wordBC =>
    exact absurd hin Bool.false_ne_true

/-- The forms that have saddr(p), !addr16 and [HL+byte]: two cells of the 1st map and one of the 2nd. -/
theorem reads_saddrAbsHl {s a h : Byte} {mk : MemOp → Instr} (hs : s ∉ escapes) (ha : a ∉ escapes)
    (hsaddr : gridCell map1 s = .opB fun off => mk (.saddr off))
    (habs : gridCell map1 a = .opW fun w => mk (.abs false w))
    (hhl : gridCell map2 h = .opB fun off => mk (.hlOff false off)) {m : MemOp}
    (hin : m.isIn [.saddr, .abs, .hlOff] = true) :
    Reads (opSaddrAbsHl s a h m.cls ++ m.bytes) (mk (noEs m)) := by
  cases m with
  | saddr off => exact .map1 hs (hsaddr ▸ .opB _ off)
  | abs _ w => exact .map1 ha (habs ▸ .opW _ w)
  | hlOff _ off => exact .map2 (hhl ▸ .opB _ off)
  | sfr | de | hl | deOff | spOff | hlB | hlC | wordB | wordC | wordBC => exact absurd hin Bool.false_ne_true

/-- A memory form with no byte behind the operand. -/
theorem Decodes.of_memForm_last {m : MemOp} {mk : MemOp → Instr} {op : MemClass → List Byte}
    (henc : encode (mk m) = memForm m op) (hes : (mk (noEs m)).withEs = (noEs m).withEs.map mk)
    (h : Reads (op m.cls ++ m.bytes) (mk (noEs m))) : Decodes (mk m) :=
  .of_memForm (tail := []) (by rw [henc, List.append_nil]) hes (by rwa [List.append_nil])

/-! ### The eight byte operations (R200) -/

/-- The cells of the operation with number `n`: rows `n` of the 1st and 2nd map, and two cells of row `n + 8` of the 2nd. -/
structure AluRow (n : Byte) (mk : AluOp → Instr) : Prop where
  enc : ∀ o, encode (mk o) = encAlu n o
  es : ∀ o, (mk o).withEs = o.withEs.map mk
  notEscape : ∀ c ∈ ([0x0A, 0x0B, 0x0C, 0x0D, 0x0E, 0x0F] : List Byte), n <<< 4 ||| c ∉ escapes
  cells : (gridCell map1 (n <<< 4 ||| 0x0A) = .opBB fun off d => mk (.saddrImm off d)) ∧
    (gridCell map1 (n <<< 4 ||| 0x0B) = .opB fun off => mk (.aMem (.saddr off))) ∧
    (gridCell map1 (n <<< 4 ||| 0x0C) = .opB fun d => mk (.aImm d)) ∧
    (gridCell map1 (n <<< 4 ||| 0x0D) = .op0 (mk (.aMem (.hl false)))) ∧
    (gridCell map1 (n <<< 4 ||| 0x0E) = .opB fun off => mk (.aMem (.hlOff false off))) ∧
    (gridCell map1 (n <<< 4 ||| 0x0F) = .opW fun w => mk (.aMem (.abs false w)))
  indexed : gridCell map2 ((n + 8) <<< 4) = .op0 (mk (.aMem (.hlB false))) ∧
    gridCell map2 ((n + 8) <<< 4 ||| 0x02) = .op0 (mk (.aMem (.hlC false)))
  regA : ∀ r : Reg8, gridCell map2 (n <<< 4 ||| r.code) = .op0 (mk (.regA r))
  aReg : ∀ r : Reg8, r ≠ .a → gridCell map2 (n <<< 4 ||| 0x08 ||| r.code) = .op0 (mk (.aReg r))

theorem AluRow.reads_aMem {n : Byte} {mk : AluOp → Instr} (row : AluRow n mk) {m : MemOp}
    (hin : (AluOp.aMem m).wf = true) : Reads (opAluMem n m.cls ++ m.bytes) (mk (.aMem (noEs m))) := by
  obtain ⟨-, hsaddr, -, hhl, hhlOff, habs⟩ := row.cells
  obtain ⟨hhlB, hhlC⟩ := row.indexed
  cases m with
  | saddr off => exact .map1 (row.notEscape 0x0B (by decide)) (hsaddr ▸ .opB _ off)
  | abs _ w => exact .map1 (row.notEscape 0x0F (by decide)) (habs ▸ .opW _ w)
  | hl => exact .map1 (row.notEscape 0x0D (by decide)) (hhl ▸ .op0 _)
  | hlOff _ off => exact .map1 (row.notEscape 0x0E (by decide)) (hhlOff ▸ .opB _ off)
  | hlB => exact .map2 (hhlB ▸ .op0 _)
  | hlC => exact .map2 (hhlC ▸ .op0 _)
  | sfr | de | deOff | spOff | wordB | wordC | wordBC => exact absurd hin Bool.false_ne_true

theorem AluRow.decodes {n : Byte} {mk : AluOp → Instr} (row : AluRow n mk) {o : AluOp} (ho : o.wf = true) :
    Decodes (mk o) := by
  obtain ⟨hsaddrImm, -, haImm, -, -, -⟩ := row.cells
  cases o with
  | aImm d => exact .of_reads (row.enc _ ▸ .map1 (row.notEscape 0x0C (by decide)) (haImm ▸ .opB _ d))
  | saddrImm off d =>
    exact .of_reads (row.enc _ ▸ .map1 (row.notEscape 0x0A (by decide)) (hsaddrImm ▸ .opBB _ off d))
  | aReg r => exact .of_reads (row.enc _ ▸ .map2 (row.aReg r (by simpa [AluOp.wf] using ho) ▸ .op0 _))
  | regA r => exact .of_reads (row.enc _ ▸ .map2 (row.regA r ▸ .op0 _))
  | aMem m =>
    exact .of_memForm_last (mk := fun m => mk (.aMem m)) (row.enc _)
      (by rw [row.es, AluOp.withEs, Option.map_map]; rfl) (row.reads_aMem ho)
  | absImm => exact absurd ho Bool.false_ne_true

/-- The operations and their numbers (R200, R208). -/
def aluNumbers : List (Byte × (AluOp → Instr)) :=
  [(0, .add), (1, .addc), (2, .sub), (3, .subc), (4, .cmp), (5, .and), (6, .or), (7, .xor)]

theorem aluRow {n : Byte} {mk : AluOp → Instr} (h : (n, mk) ∈ aluNumbers) : AluRow n mk := by
  simp only [aluNumbers, List.mem_cons, List.not_mem_nil, or_false, Prod.mk.injEq] at h
  obtain ⟨rfl, rfl⟩ | ⟨rfl, rfl⟩ | ⟨rfl, rfl⟩ | ⟨rfl, rfl⟩ | ⟨rfl, rfl⟩ | ⟨rfl, rfl⟩ | ⟨rfl, rfl⟩ |
    ⟨rfl, rfl⟩ := h
  all_goals
    refine ⟨fun _ => rfl, fun _ => rfl, by decide, ⟨rfl, rfl, rfl, rfl, rfl, rfl⟩, ⟨rfl, rfl⟩, ?_, ?_⟩
    · intro r; cases r <;> rfl
    · intro r hr
      cases r with
      | a => exact absurd rfl hr
      | x | c | b | e | d | l | h => rfl

/-- CMP has the two `!addr16, #byte` forms besides (R208). -/
theorem decodes_cmp {o : AluOp} (ho : o.wfCmp = true) : Decodes (.cmp o) := by
  have row : AluRow 4 .cmp := aluRow (by simp [aluNumbers])
  cases o with
  | absImm es w d =>
    have h : Reads (0x40 :: (wordBytes w ++ [d])) (.cmp (.absImm false w d)) := .map1 (by decide) (.opWB _ w d)
    cases es with
    | false => exact .of_reads h
    | true => exact .of_es rfl h rfl
  | aImm | saddrImm | aReg | regA | aMem => exact row.decodes ho

/-! ### ADDW, SUBW, CMPW (R230) -/

/-- The cells of the operation with high nibble `n`. -/
structure AluWRow (n : Byte) (mk : AluWOp → Instr) : Prop where
  enc : ∀ o, encode (mk o) = encAluW n o
  es : ∀ o, (mk o).withEs = o.withEs.map mk
  notEscape : ∀ c ∈ ([0x02, 0x04, 0x06] : List Byte), n <<< 4 ||| c ∉ escapes
  imm : gridCell map1 (n <<< 4 ||| 0x04) = .opW fun w => mk (.imm w)
  saddr : gridCell map1 (n <<< 4 ||| 0x06) = .opB fun off => mk (.mem (.saddr off))
  abs : gridCell map1 (n <<< 4 ||| 0x02) = .opW fun w => mk (.mem (.abs false w))
  hlOff : gridCell map2 (n <<< 4 ||| 0x09) = .opB fun off => mk (.mem (.hlOff false off))

theorem AluWRow.decodes {n : Byte} {mk : AluWOp → Instr} (row : AluWRow n mk) {axAllowed : Bool} {o : AluWOp}
    (hregs : ∀ rp : Reg16, (AluWOp.reg rp).wf axAllowed = true →
      n <<< 4 ||| 0x01 ||| rp.code <<< 1 ∉ escapes ∧
      gridCell map1 (n <<< 4 ||| 0x01 ||| rp.code <<< 1) = .op0 (mk (.reg rp)))
    (ho : o.wf axAllowed = true) : Decodes (mk o) := by
  cases o with
  | imm w => exact .of_reads (row.enc _ ▸ .map1 (row.notEscape 0x04 (by decide)) (row.imm ▸ .opW _ w))
  | reg rp =>
    obtain ⟨hb, hcell⟩ := hregs rp ho
    exact .of_reads (row.enc _ ▸ .map1 hb (hcell ▸ .op0 _))
  | mem m =>
    exact .of_memForm_last (mk := fun m => mk (.mem m)) (row.enc _)
      (by rw [row.es, AluWOp.withEs, Option.map_map]; rfl)
      (reads_saddrAbsHl (mk := fun m => mk (.mem m)) (row.notEscape 0x06 (by decide)) (row.notEscape 0x02 (by decide))
        row.saddr row.abs row.hlOff ho)

theorem decodes_addw {o : AluWOp} (ho : o.wf true = true) : Decodes (.addw o) :=
  AluWRow.decodes (n := 0) ⟨fun _ => rfl, fun _ => rfl, by decide, rfl, rfl, rfl, rfl⟩
    (fun rp _ => by cases rp <;> exact ⟨by decide, rfl⟩) ho

/-- `AX, AX` would be the code 21H, which is blank. -/
theorem decodes_subw {o : AluWOp} (ho : o.wf false = true) : Decodes (.subw o) :=
  AluWRow.decodes (n := 2) ⟨fun _ => rfl, fun _ => rfl, by decide, rfl, rfl, rfl, rfl⟩
    (fun rp hrp => by
      cases rp with
      | ax => exact absurd hrp Bool.false_ne_true
      | bc | de | hl => exact ⟨by decide, rfl⟩) ho

/-- `AX, AX` would be the code 41H, which is `MOV ES, #byte`. -/
theorem decodes_cmpw {o : AluWOp} (ho : o.wf false = true) : Decodes (.cmpw o) :=
  AluWRow.decodes (n := 4) ⟨fun _ => rfl, fun _ => rfl, by decide, rfl, rfl, rfl, rfl⟩
    (fun rp hrp => by
      cases rp with
      | ax => exact absurd hrp Bool.false_ne_true
      | bc | de | hl => exact ⟨by decide, rfl⟩) ho

/-! ### The 3rd map: the high nibble is a bit number, or 8 + it (R125) -/

theorem nib_fields : ∀ (bit : BitVec 3) (k : BitVec 4),
    (nib (bit.zeroExtend 8) (k.zeroExtend 8)).getLsbD 7 = false ∧
    (nib (8 + bit.zeroExtend 8) (k.zeroExtend 8)).getLsbD 7 = true ∧
    (nib (bit.zeroExtend 8) (k.zeroExtend 8)).extractLsb' 4 3 = bit ∧
    (nib (8 + bit.zeroExtend 8) (k.zeroExtend 8)).extractLsb' 4 3 = bit ∧
    (nib (bit.zeroExtend 8) (k.zeroExtend 8)).toNat % 16 = k.toNat ∧
    (nib (8 + bit.zeroExtend 8) (k.zeroExtend 8)).toNat % 16 = k.toNat := by decide

theorem map3Cell_low (bit : BitVec 3) (k : BitVec 4) :
    map3Cell (nib (bit.zeroExtend 8) (k.zeroExtend 8)) = cellAt (map3Low bit) k.toNat := by
  obtain ⟨h7, -, hbit, -, hcol, -⟩ := nib_fields bit k
  simp only [map3Cell, h7, hbit, hcol, Bool.false_eq_true, if_false]

theorem map3Cell_high (bit : BitVec 3) (k : BitVec 4) :
    map3Cell (nib (8 + bit.zeroExtend 8) (k.zeroExtend 8)) = cellAt (map3High bit) k.toNat := by
  obtain ⟨-, h7, -, hbit, -, hcol⟩ := nib_fields bit k
  simp only [map3Cell, h7, hbit, hcol, if_true]

theorem reads_map3_low {bit : BitVec 3} (k : BitVec 4) {bs : List Byte} {i : Instr}
    (h : Takes (cellAt (map3Low bit) k.toNat) bs i) :
    Reads (0x71 :: nib (bit.zeroExtend 8) (k.zeroExtend 8) :: bs) i := .map3 (map3Cell_low bit k ▸ h)

theorem reads_map3_high {bit : BitVec 3} (k : BitVec 4) {bs : List Byte} {i : Instr}
    (h : Takes (cellAt (map3High bit) k.toNat) bs i) :
    Reads (0x71 :: nib (8 + bit.zeroExtend 8) (k.zeroExtend 8) :: bs) i := .map3 (map3Cell_high bit k ▸ h)

/-- The opcode bytes of a bit in memory, by the class of the operand. -/
def opBit3 (s f w : Byte) (bit : BitVec 3) : MemClass → List Byte
  | .saddr => [0x71, nib (bit.zeroExtend 8) s]
  | .sfr => [0x71, nib (bit.zeroExtend 8) f]
  | .hl => [0x71, nib (8 + bit.zeroExtend 8) s]
  | .abs => [0x71, nib (bit.zeroExtend 8) w]
  | .de | .deOff | .hlOff | .spOff | .hlB | .hlC | .wordB | .wordC | .wordBC => []

theorem encBit3_mem (s f w : Byte) (bit : BitVec 3) (m : MemOp) :
    encBit3 s f w bit (.mem m) = memForm m (opBit3 s f w bit) := by
  cases m <;> rfl

/-- The cells of a bit instruction: columns `s` and `f` for every bit, and `w` where it has the !addr16 form. -/
structure BitColumns (s f : BitVec 4) (bit : BitVec 3) (mk : BitLoc → Instr) : Prop where
  es : ∀ l, (mk l).withEs = l.withEs.map mk
  saddr : cellAt (map3Low bit) s.toNat = .opB fun off => mk (.mem (.saddr off))
  hl : cellAt (map3High bit) s.toNat = .op0 (mk (.mem (.hl false)))
  a : cellAt (map3High bit) f.toNat = .op0 (mk .a)

/-- `hsfr` and `habs` are the two columns in which instructions of the same table differ. -/
theorem BitColumns.decodes {s f w : BitVec 4} {bit : BitVec 3} {mk : BitLoc → Instr} (col : BitColumns s f bit mk)
    {l : BitLoc} (henc : encode (mk l) = encBit3 (s.zeroExtend 8) (f.zeroExtend 8) (w.zeroExtend 8) bit l)
    (hin : ∀ m, l = .mem m → m.isIn [.saddr, .sfr, .hl, .abs] = true)
    (hsfr : ∀ off, l = .mem (.sfr off) → Takes (cellAt (map3Low bit) f.toNat) [off] (mk (.mem (.sfr off))))
    (habs : ∀ es x, l = .mem (.abs es x) →
      Takes (cellAt (map3Low bit) w.toNat) (wordBytes x) (mk (.mem (.abs false x)))) : Decodes (mk l) := by
  cases l with
  | a => exact .of_reads (henc ▸ reads_map3_high f (col.a ▸ .op0 _))
  | mem m =>
    refine .of_memForm_last (mk := fun m => mk (.mem m)) (henc.trans (encBit3_mem ..))
      (by rw [col.es, BitLoc.withEs, Option.map_map]; rfl) ?_
    cases m with
    | saddr off => exact reads_map3_low s (col.saddr ▸ .opB _ off)
    | sfr off => exact reads_map3_low f (hsfr off rfl)
    | hl => exact reads_map3_high s (col.hl ▸ .op0 _)
    | abs es x => exact reads_map3_low w (habs es x rfl)
    | de | deOff | hlOff | spOff | hlB | hlC | wordB | wordC | wordBC =>
      exact absurd (hin _ rfl) Bool.false_ne_true

/-- The bit instructions whose locations are saddr, sfr, A and [HL] alone. -/
theorem BitColumns.decodes_wf {s f : BitVec 4} {bit : BitVec 3} {mk : BitLoc → Instr} (col : BitColumns s f bit mk)
    (hcell : cellAt (map3Low bit) f.toNat = .opB fun off => mk (.mem (.sfr off))) {l : BitLoc}
    (henc : encode (mk l) = encBit3 (s.zeroExtend 8) (f.zeroExtend 8) 0 bit l) (hl : l.wf = true) :
    Decodes (mk l) := by
  refine col.decodes (w := 0) henc ?_ (fun off _ => hcell ▸ .opB _ off) ?_
  · rintro m rfl
    cases m with
    | saddr | sfr | abs | hl => rfl
    | de | deOff | hlOff | spOff | hlB | hlC | wordB | wordC | wordBC => exact absurd hl Bool.false_ne_true
  · rintro es x rfl
    exact absurd hl Bool.false_ne_true

/-- Bit 7 of PSW is EI or DI, so SET1 and CLR1 do not name it (R352, R353). -/
theorem not_psw7_of_wfSetClr {bit : BitVec 3} {off : Byte} (hl : BitLoc.wfSetClr bit (.mem (.sfr off)) = true) :
    ¬ (bit = 7 ∧ off = 0xFA) := by
  rintro ⟨rfl, rfl⟩
  exact absurd hl (by decide)

theorem isIn_of_wfSetClr {bit : BitVec 3} {m : MemOp} (hl : BitLoc.wfSetClr bit (.mem m) = true) :
    m.isIn [.saddr, .sfr, .hl, .abs] = true := by
  rw [BitLoc.wfSetClr, Bool.and_eq_true] at hl
  exact hl.1

theorem decodes_set1 {l : BitLoc} {bit : BitVec 3} (hl : l.wfSetClr bit = true) : Decodes (.set1 l bit) := by
  refine BitColumns.decodes (s := 0x2) (f := 0xA) (w := 0x0) (mk := (.set1 · bit))
    ⟨fun _ => rfl, rfl, rfl, rfl⟩ rfl ?_ ?_ (fun _ x _ => .opW _ x)
  · rintro m rfl
    exact isIn_of_wfSetClr hl
  · rintro off rfl
    have hne : (if bit = 7 ∧ off = 0xFA then .ei else .set1 (.mem (.sfr off)) bit) = Instr.set1 (.mem (.sfr off)) bit :=
      if_neg (not_psw7_of_wfSetClr hl)
    exact hne ▸ .opB _ off

theorem decodes_clr1 {l : BitLoc} {bit : BitVec 3} (hl : l.wfSetClr bit = true) : Decodes (.clr1 l bit) := by
  refine BitColumns.decodes (s := 0x3) (f := 0xB) (w := 0x8) (mk := (.clr1 · bit))
    ⟨fun _ => rfl, rfl, rfl, rfl⟩ rfl ?_ ?_ (fun _ x _ => .opW _ x)
  · rintro m rfl
    exact isIn_of_wfSetClr hl
  · rintro off rfl
    have hne : (if bit = 7 ∧ off = 0xFA then .di else .clr1 (.mem (.sfr off)) bit) = Instr.clr1 (.mem (.sfr off)) bit :=
      if_neg (not_psw7_of_wfSetClr hl)
    exact hne ▸ .opB _ off

/-! ### The 4th map: bit branches and shifts (R126) -/

theorem nib_eq_append : ∀ c k : BitVec 4, nib (c.zeroExtend 8) (k.zeroExtend 8) = c ++ k := by decide

theorem decodes_shift {i : Instr} {k c : BitVec 4} {ok : Bool} (henc : encode i = encShift (k.zeroExtend 8) c)
    (hok : ok = true) (hcell : cellAt (map4 c) k.toNat = shiftCell ok i) : Decodes i := by
  have htakes : Takes (map4Cell (nib (c.zeroExtend 8) (k.zeroExtend 8))) [] i := by
    rw [nib_eq_append, map4Cell_append, hcell, hok]
    exact .op0 i
  exact .of_reads (henc ▸ .map4 htakes)

theorem nib_low_append : ∀ (bit : BitVec 3) (k : BitVec 4),
    nib (bit.zeroExtend 8) (k.zeroExtend 8) = (0#1 ++ bit) ++ k ∧
    nib (8 + bit.zeroExtend 8) (k.zeroExtend 8) = (1#1 ++ bit) ++ k := by decide

theorem map4_bit : ∀ bit : BitVec 3,
    (0#1 ++ bit).extractLsb' 0 3 = bit ∧ (1#1 ++ bit).extractLsb' 0 3 = bit ∧
    (0#1 ++ bit).getLsbD 3 = false ∧ (1#1 ++ bit).getLsbD 3 = true := by decide

theorem reads_map4_low {bit : BitVec 3} (k : BitVec 4) {bs : List Byte} {i : Instr}
    (h : Takes (cellAt (map4 (0#1 ++ bit)) k.toNat) bs i) :
    Reads (0x31 :: nib (bit.zeroExtend 8) (k.zeroExtend 8) :: bs) i :=
  .map4 (by rwa [(nib_low_append bit k).1, map4Cell_append])

theorem reads_map4_high {bit : BitVec 3} (k : BitVec 4) {bs : List Byte} {i : Instr}
    (h : Takes (cellAt (map4 (1#1 ++ bit)) k.toNat) bs i) :
    Reads (0x31 :: nib (8 + bit.zeroExtend 8) (k.zeroExtend 8) :: bs) i :=
  .map4 (by rwa [(nib_low_append bit k).2, map4Cell_append])

/-- The opcode bytes of a bit branch on memory. -/
def opBit4 (k : Byte) (bit : BitVec 3) : MemClass → List Byte
  | .saddr => [0x31, nib (bit.zeroExtend 8) k]
  | .sfr => [0x31, nib (8 + bit.zeroExtend 8) k]
  | .hl => [0x31, nib (8 + bit.zeroExtend 8) (k + 1)]
  | .abs | .de | .deOff | .hlOff | .spOff | .hlB | .hlC | .wordB | .wordC | .wordBC => []

theorem encBit4_mem (k : Byte) (bit : BitVec 3) (disp : Byte) (m : MemOp) :
    encBit4 k bit disp (.mem m) = memForm m (opBit4 k bit) ++ [disp] := by
  cases m <;> rfl

/-- The cells of a bit branch: column `k` for saddr and sfr, the next one for A and [HL]. -/
structure BranchColumns (k k' : BitVec 4) (bit : BitVec 3) (disp : Byte) (mk : BitLoc → Instr) : Prop where
  es : ∀ l, (mk l).withEs = l.withEs.map mk
  next : k'.zeroExtend 8 = k.zeroExtend 8 + (1 : Byte)
  saddr : ∀ off, Takes (cellAt (map4 (0#1 ++ bit)) k.toNat) [off, disp] (mk (.mem (.saddr off)))
  sfr : ∀ off, Takes (cellAt (map4 (1#1 ++ bit)) k.toNat) [off, disp] (mk (.mem (.sfr off)))
  a : Takes (cellAt (map4 (0#1 ++ bit)) k'.toNat) [disp] (mk .a)
  hl : Takes (cellAt (map4 (1#1 ++ bit)) k'.toNat) [disp] (mk (.mem (.hl false)))

theorem BranchColumns.decodes {k k' : BitVec 4} {bit : BitVec 3} {disp : Byte} {mk : BitLoc → Instr}
    (col : BranchColumns k k' bit disp mk) {l : BitLoc} (henc : encode (mk l) = encBit4 (k.zeroExtend 8) bit disp l)
    (hl : l.wf = true) : Decodes (mk l) := by
  cases l with
  | a =>
    rw [encBit4, ← col.next] at henc
    exact .of_reads (henc ▸ reads_map4_low k' col.a)
  | mem m =>
    refine .of_memForm (mk := fun m => mk (.mem m)) (henc.trans (encBit4_mem ..))
      (by rw [col.es, BitLoc.withEs, Option.map_map]; rfl) ?_
    cases m with
    | saddr off => exact reads_map4_low k (col.saddr off)
    | sfr off => exact reads_map4_high k (col.sfr off)
    | hl =>
      have h := reads_map4_high k' col.hl
      rw [col.next] at h
      exact h
    | abs | de | deOff | hlOff | spOff | hlB | hlC | wordB | wordC | wordBC => exact absurd hl Bool.false_ne_true

theorem branchColumns {k k' : BitVec 4} {bit : BitVec 3} {disp : Byte} {mk : BitLoc → BitVec 3 → Byte → Instr}
    (es : ∀ l, (mk l bit disp).withEs = l.withEs.map (mk · bit disp))
    (next : k'.zeroExtend 8 = k.zeroExtend 8 + (1 : Byte))
    (direct : ∀ hi : BitVec 4, cellAt (map4 hi) k.toNat =
      if hi.getLsbD 3 then .opBB fun f d => mk (.mem (.sfr f)) (hi.extractLsb' 0 3) d
      else .opBB fun s d => mk (.mem (.saddr s)) (hi.extractLsb' 0 3) d)
    (indirect : ∀ hi : BitVec 4, cellAt (map4 hi) k'.toNat =
      if hi.getLsbD 3 then .opB fun d => mk (.mem (.hl false)) (hi.extractLsb' 0 3) d
      else .opB fun d => mk .a (hi.extractLsb' 0 3) d) :
    BranchColumns k k' bit disp (mk · bit disp) := by
  obtain ⟨hbit0, hbit1, hup0, hup1⟩ := map4_bit bit
  refine ⟨es, next, fun off => ?_, fun off => ?_, ?_, ?_⟩
  · rw [direct, hup0, hbit0]; exact .opBB (fun s d => mk (.mem (.saddr s)) bit d) off disp
  · rw [direct, hup1, hbit1]; exact .opBB (fun f d => mk (.mem (.sfr f)) bit d) off disp
  · rw [indirect, hup0, hbit0]; exact .opB (fun d => mk .a bit d) disp
  · rw [indirect, hup1, hbit1]; exact .opB (fun d => mk (.mem (.hl false)) bit d) disp

theorem decodes_bt {l : BitLoc} (bit : BitVec 3) (disp : Byte) (hl : l.wf = true) : Decodes (.bt l bit disp) :=
  (branchColumns (k := 2) (k' := 3) (mk := .bt) (fun _ => rfl) rfl (fun _ => rfl) (fun _ => rfl)).decodes rfl hl

theorem decodes_bf {l : BitLoc} (bit : BitVec 3) (disp : Byte) (hl : l.wf = true) : Decodes (.bf l bit disp) :=
  (branchColumns (k := 4) (k' := 5) (mk := .bf) (fun _ => rfl) rfl (fun _ => rfl) (fun _ => rfl)).decodes rfl hl

theorem decodes_btclr {l : BitLoc} (bit : BitVec 3) (disp : Byte) (hl : l.wf = true) : Decodes (.btclr l bit disp) :=
  (branchColumns (k := 0) (k' := 1) (mk := .btclr) (fun _ => rfl) rfl (fun _ => rfl) (fun _ => rfl)).decodes rfl hl

/-! ### Every instruction -/

theorem forall_of_lt {w : Nat} {P : BitVec w → Prop} (h : ∀ n < 2 ^ w, P (BitVec.ofNat w n)) (v : BitVec w) : P v := by
  have hv := h v.toNat v.isLt
  rwa [BitVec.ofNat_toNat, BitVec.setWidth_eq] at hv

/-- The 32 cells of CALLT, one of each of the columns 4 to 7 in each of the rows 8 to F (R108). -/
theorem callt_cell : ∀ k : BitVec 5, gridCell map2 (calltByte k) = .op0 (.callt k) :=
  forall_of_lt fun n hn => by interval_cases n <;> rfl

theorem sel_cell : ∀ n : BitVec 2, gridCell map2 (0xCF + n.zeroExtend 8 <<< 4) = .op0 (.sel n) :=
  forall_of_lt fun n hn => by interval_cases n <;> rfl

theorem decodes {i : Instr} (h : i.wf = true) : Decodes i := by
  cases i with
  | movRI r d => cases r <;> exact .of_reads (.map1 (by decide) (.opB _ d))
  | movMI m d => exact .of_memForm (mk := (.movMI · d)) rfl rfl (reads_movMI d h)
  | movAR r =>
    cases r with
    | a => exact absurd h Bool.false_ne_true
    | x | c | b | e | d | l | h => exact .of_reads (.map1 (by decide) (.op0 _))
  | movRA r =>
    cases r with
    | a => exact absurd h Bool.false_ne_true
    | x | c | b | e | d | l | h => exact .of_reads (.map1 (by decide) (.op0 _))
  | movAM m => exact .of_memForm_last rfl rfl (reads_movAM m)
  | movMA m => exact .of_memForm_last rfl rfl (reads_movMA m)
  | movRM r m =>
    have hin : m.isIn [.saddr, .abs] = true := (Bool.and_eq_true_iff.mp h).2
    cases r with
    | x | b | c =>
      exact .of_memForm_last (mk := .movRM _) rfl rfl (reads_saddrAbs (by decide) (by decide) rfl rfl hin)
    | a | e | d | l | h => exact absurd h Bool.false_ne_true
  | movEsI d => exact .of_reads (.map1 (by decide) (.opB _ d))
  | movEsSaddr off => exact .of_reads (.map2 (.opB _ off))
  | xchAR r =>
    cases r with
    | a => exact absurd h Bool.false_ne_true
    | x => exact .of_reads (.map1 (by decide) (.op0 _))
    | c | b | e | d | l | h => exact .of_reads (.map2 (.op0 _))
  | xchAM m => exact .of_memForm_last rfl rfl (reads_xchAM h)
  | onebR r =>
    cases r with
    | x | a | c | b => exact .of_reads (.map1 (by decide) (.op0 _))
    | e | d | l | h => exact absurd h Bool.false_ne_true
  | onebM m => exact .of_memForm_last rfl rfl (reads_saddrAbs (by decide) (by decide) rfl rfl h)
  | clrbR r =>
    cases r with
    | x | a | c | b => exact .of_reads (.map1 (by decide) (.op0 _))
    | e | d | l | h => exact absurd h Bool.false_ne_true
  | clrbM m => exact .of_memForm_last rfl rfl (reads_saddrAbs (by decide) (by decide) rfl rfl h)
  | movs es off =>
    have hr : Reads [0x61, 0xCE, off] (.movs false off) := .map2 (.opB _ off)
    cases es with
    | false => exact .of_reads hr
    | true => exact .of_es rfl hr rfl
  | movwRI rp d => cases rp <;> exact .of_reads (.map1 (by decide) (.opW _ d))
  | movwMI m d =>
    refine .of_memForm (mk := (.movwMI · d)) rfl ?_ (reads_movwMI d h)
    cases m with
    | saddr | sfr => rfl
    | _ => exact absurd h Bool.false_ne_true
  | movwAxR rp =>
    cases rp with
    | ax => exact absurd h Bool.false_ne_true
    | bc | de | hl => exact .of_reads (.map1 (by decide) (.op0 _))
  | movwRAx rp =>
    cases rp with
    | ax => exact absurd h Bool.false_ne_true
    | bc | de | hl => exact .of_reads (.map1 (by decide) (.op0 _))
  | movwAxM m => exact .of_memForm_last rfl rfl (reads_movwAxM h)
  | movwMAx m => exact .of_memForm_last rfl rfl (reads_movwMAx h)
  | movwRM rp m =>
    have hin : m.isIn [.saddr, .abs] = true := (Bool.and_eq_true_iff.mp h).2
    cases rp with
    | ax => exact absurd h Bool.false_ne_true
    | bc | de | hl =>
      exact .of_memForm_last (mk := .movwRM _) rfl rfl (reads_saddrAbs (by decide) (by decide) rfl rfl hin)
  | xchw rp =>
    cases rp with
    | ax => exact absurd h Bool.false_ne_true
    | bc | de | hl => exact .of_reads (.map1 (by decide) (.op0 _))
  | onew rp =>
    cases rp with
    | ax | bc => exact .of_reads (.map1 (by decide) (.op0 _))
    | de | hl => exact absurd h Bool.false_ne_true
  | clrw rp =>
    cases rp with
    | ax | bc => exact .of_reads (.map1 (by decide) (.op0 _))
    | de | hl => exact absurd h Bool.false_ne_true
  | add o => exact (aluRow (n := 0) (by simp [aluNumbers])).decodes h
  | addc o => exact (aluRow (n := 1) (by simp [aluNumbers])).decodes h
  | sub o => exact (aluRow (n := 2) (by simp [aluNumbers])).decodes h
  | subc o => exact (aluRow (n := 3) (by simp [aluNumbers])).decodes h
  | and o => exact (aluRow (n := 5) (by simp [aluNumbers])).decodes h
  | or o => exact (aluRow (n := 6) (by simp [aluNumbers])).decodes h
  | xor o => exact (aluRow (n := 7) (by simp [aluNumbers])).decodes h
  | cmp o => exact decodes_cmp h
  | cmp0R r =>
    cases r with
    | x | a | c | b => exact .of_reads (.map1 (by decide) (.op0 _))
    | e | d | l | h => exact absurd h Bool.false_ne_true
  | cmp0M m => exact .of_memForm_last rfl rfl (reads_saddrAbs (by decide) (by decide) rfl rfl h)
  | cmps es off =>
    have hr : Reads [0x61, 0xDE, off] (.cmps false off) := .map2 (.opB _ off)
    cases es with
    | false => exact .of_reads hr
    | true => exact .of_es rfl hr rfl
  | addw o => exact decodes_addw h
  | subw o => exact decodes_subw h
  | cmpw o => exact decodes_cmpw h
  | addwSp d => exact .of_reads (.map1 (by decide) (.opB _ d))
  | subwSp d => exact .of_reads (.map1 (by decide) (.opB _ d))
  | incR r => cases r <;> exact .of_reads (.map1 (by decide) (.op0 _))
  | incM m => exact .of_memForm_last rfl rfl (reads_saddrAbsHl (by decide) (by decide) rfl rfl rfl h)
  | decR r => cases r <;> exact .of_reads (.map1 (by decide) (.op0 _))
  | decM m => exact .of_memForm_last rfl rfl (reads_saddrAbsHl (by decide) (by decide) rfl rfl rfl h)
  | incwR rp => cases rp <;> exact .of_reads (.map1 (by decide) (.op0 _))
  | incwM m => exact .of_memForm_last rfl rfl (reads_saddrAbsHl (by decide) (by decide) rfl rfl rfl h)
  | decwR rp => cases rp <;> exact .of_reads (.map1 (by decide) (.op0 _))
  | decwM m => exact .of_memForm_last rfl rfl (reads_saddrAbsHl (by decide) (by decide) rfl rfl rfl h)
  | shr c => exact decodes_shift (k := 0xA) rfl h rfl
  | shrw c => exact decodes_shift (k := 0xE) rfl h rfl
  | shl r c =>
    have hc : cntOk8 c = true := (Bool.and_eq_true_iff.mp h).2
    cases r with
    | a => exact decodes_shift (k := 0x9) rfl hc rfl
    | b => exact decodes_shift (k := 0x8) rfl hc rfl
    | c => exact decodes_shift (k := 0x7) rfl hc rfl
    | x | e | d | l | h => exact absurd h Bool.false_ne_true
  | shlw rp c =>
    have hc : cntOk16 c = true := (Bool.and_eq_true_iff.mp h).2
    cases rp with
    | ax => exact decodes_shift (k := 0xD) rfl hc rfl
    | bc => exact decodes_shift (k := 0xC) rfl hc rfl
    | de | hl => exact absurd h Bool.false_ne_true
  | sar c => exact decodes_shift (k := 0xB) rfl h rfl
  | sarw c => exact decodes_shift (k := 0xF) rfl h rfl
  | rolwc rp =>
    cases rp with
    | ax | bc => exact .of_reads (.map2 (.op0 _))
    | de | hl => exact absurd h Bool.false_ne_true
  | mov1Cy l bit =>
    exact BitColumns.decodes_wf (s := 0x4) (f := 0xC) (mk := (.mov1Cy · bit)) ⟨fun _ => rfl, rfl, rfl, rfl⟩ rfl rfl h
  | mov1Bit l bit =>
    exact BitColumns.decodes_wf (s := 0x1) (f := 0x9) (mk := (.mov1Bit · bit)) ⟨fun _ => rfl, rfl, rfl, rfl⟩ rfl rfl h
  | and1 l bit =>
    exact BitColumns.decodes_wf (s := 0x5) (f := 0xD) (mk := (.and1 · bit)) ⟨fun _ => rfl, rfl, rfl, rfl⟩ rfl rfl h
  | or1 l bit =>
    exact BitColumns.decodes_wf (s := 0x6) (f := 0xE) (mk := (.or1 · bit)) ⟨fun _ => rfl, rfl, rfl, rfl⟩ rfl rfl h
  | xor1 l bit =>
    exact BitColumns.decodes_wf (s := 0x7) (f := 0xF) (mk := (.xor1 · bit)) ⟨fun _ => rfl, rfl, rfl, rfl⟩ rfl rfl h
  | set1 l bit => exact decodes_set1 h
  | clr1 l bit => exact decodes_clr1 h
  | set1Cy | clr1Cy | not1Cy => exact .of_reads (.map3 (.op0 _))
  | callR rp => cases rp <;> exact .of_reads (.map2 (.op0 _))
  | callRel w => exact .of_reads (.map1 (by decide) (.opW _ w))
  | callAbs16 w => exact .of_reads (.map1 (by decide) (.opW _ w))
  | callAbs20 a => exact .of_reads (.map1 (by decide) (.opA _ a))
  | callt k => exact .of_reads (.map2 (callt_cell k ▸ .op0 _))
  | pushR rp => cases rp <;> exact .of_reads (.map1 (by decide) (.op0 _))
  | popR rp => cases rp <;> exact .of_reads (.map1 (by decide) (.op0 _))
  | brRel8 d => exact .of_reads (.map1 (by decide) (.opB _ d))
  | brRel16 w => exact .of_reads (.map1 (by decide) (.opW _ w))
  | brAbs16 w => exact .of_reads (.map1 (by decide) (.opW _ w))
  | brAbs20 a => exact .of_reads (.map1 (by decide) (.opA _ a))
  | bc d | bnc d | bz d | bnz d => exact .of_reads (.map1 (by decide) (.opB _ d))
  | bh d | bnh d => exact .of_reads (.map2 (.opB _ d))
  | bt l bit d => exact decodes_bt bit d h
  | bf l bit d => exact decodes_bf bit d h
  | btclr l bit d => exact decodes_btclr bit d h
  | sel n => exact .of_reads (.map2 (sel_cell n ▸ .op0 _))
  | mulu | ret | nop => exact .of_reads (.map1 (by decide) (.op0 _))
  | ror | rol | rorc | rolc | brk | reti | retb | pushPsw | popPsw | brAx | skc | sknc | skz | sknz | skh | sknh
  | halt | stop => exact .of_reads (.map2 (.op0 _))
  | ei => exact .of_reads (.map3 (bs := [0xFA]) (.opB _ 0xFA))
  | di => exact .of_reads (.map3 (bs := [0xFA]) (.opB _ 0xFA))
  | prefixAlone => exact absurd h Bool.false_ne_true

/-- Settles O2: the encoding of every well-formed instruction is what one of the maps reads as it, or 11H and what one reads
as the instruction whose ES form it is. -/
theorem decodeInvertsEncode : Obligations.DecodeInvertsEncode :=
  fun _ rest h => decodes h rest

end Sys2Proof.Laws.Decoding
end

section

/-! # What the decoder answers is well-formed (`30_encoding.md` R102, R123 to R127)

Every cell of the four maps is sound: whatever its operand bytes are, it makes a well-formed instruction with the length
that its encoding has. -/

namespace Sys2Proof.Laws.Decoding
open Sys2Proof.Machine Sys2Proof.Laws.Sequential Sys2Proof.Laws.ShiftRotate

set_option Elab.async false

/-- The instruction is well-formed and takes `n` bytes, at most 4; with ES before it, where it has such a form, it is
well-formed and takes one byte more. -/
def sized (n : Nat) (i : Instr) : Bool :=
  i.wf && i.size == n && decide (n ≤ 4) &&
    match i.withEs with
    | some j => j.wf && j.size == n + 1
    | none => true

/-- Whatever its operand bytes are, the cell behind `k` opcode bytes makes a well-formed instruction with the length that its
encoding has. -/
inductive Sound (k : Nat) : Cell → Prop where
  | blank : Sound k .blank
  | op0 {i : Instr} (h : sized k i = true) : Sound k (.op0 i)
  | opB {f : Byte → Instr} (h : ∀ b, sized (1 + k) (f b) = true) : Sound k (.opB f)
  | opW {f : Word → Instr} (h : ∀ w, sized (2 + k) (f w) = true) : Sound k (.opW f)
  | opBB {f : Byte → Byte → Instr} (h : ∀ a b, sized (2 + k) (f a b) = true) : Sound k (.opBB f)
  | opBW {f : Byte → Word → Instr} (h : ∀ b w, sized (3 + k) (f b w) = true) : Sound k (.opBW f)
  | opWB {f : Word → Byte → Instr} (h : ∀ w b, sized (3 + k) (f w b) = true) : Sound k (.opWB f)
  | opA {f : Addr → Instr} (h : ∀ a, sized (3 + k) (f a) = true) : Sound k (.opA f)

/-- What a sound cell reads is sized, and its operand bytes are there. -/
theorem Sound.read {k n : Nat} {c : Cell} {err : DecodeError} {bs : List Byte} {i : Instr} (hc : Sound k c)
    (h : addLen k (c.read err bs) = .ok (i, n)) : sized n i = true ∧ n ≤ bs.length + k := by
  cases hc with
  | blank => cases h
  | op0 hi => cases h; simpa using hi
  | opB hf =>
    match bs, h with
    | b :: bs, h => cases h; exact ⟨hf b, by simp⟩
  | opW hf =>
    match bs, h with
    | l :: b :: bs, h => cases h; exact ⟨hf _, by simp⟩
  | opBB hf =>
    match bs, h with
    | a :: b :: bs, h => cases h; exact ⟨hf a b, by simp⟩
  | opBW hf =>
    match bs, h with
    | a :: l :: b :: bs, h => cases h; exact ⟨hf a _, by simp⟩
  | opWB hf =>
    match bs, h with
    | l :: b :: a :: bs, h => cases h; exact ⟨hf _ a, by simp⟩
  | opA hf =>
    match bs, h with
    | l :: b :: a :: bs, h => cases h; exact ⟨hf _, by simp⟩

theorem sound_cellAt {k : Nat} {row : List Cell} (h : ∀ c ∈ row, Sound k c) (n : Nat) : Sound k (cellAt row n) := by
  rw [cellAt, List.getD_eq_getElem?_getD]
  cases hc : row[n]? with
  | none => exact .blank
  | some c => exact h c (List.mem_of_getElem? hc)

theorem sound_gridCell {k : Nat} {g : List (List Cell)} (h : ∀ row ∈ g, ∀ c ∈ row, Sound k c) (b : Byte) :
    Sound k (gridCell g b) := by
  refine sound_cellAt ?_ _
  rw [List.getD_eq_getElem?_getD]
  cases hr : g[b.toNat / 16]? with
  | none => exact fun c hc => absurd hc List.not_mem_nil
  | some row => exact h row (List.mem_of_getElem? hr)

theorem sound_map1 : ∀ row ∈ map1, ∀ c ∈ row, Sound 1 c := by
  simp only [map1, map1Row0, map1Row1, map1Row2, map1Row3, map1Row4, map1Row5, map1Row6, map1Row7, map1Row8, map1Row9,
    map1RowA, map1RowB, map1RowC, map1RowD, map1RowE, map1RowF, aluCells, List.cons_append, List.nil_append,
    List.forall_mem_cons, List.not_mem_nil, false_implies, implies_true, and_true]
  and_intros
  all_goals constructor <;> intros <;> rfl

theorem sound_map2 : ∀ row ∈ map2, ∀ c ∈ row, Sound 2 c := by
  simp only [map2, map2Row8, map2Row9, map2RowA, map2RowB, map2RowC, map2RowD, map2RowE, map2RowF, aluRegRow, aluIdxCells,
    List.cons_append, List.nil_append, List.forall_mem_cons, List.not_mem_nil, false_implies, implies_true, and_true]
  and_intros
  all_goals constructor <;> intros <;> rfl

/-- `SET1` and `CLR1` of an sfr bit are well-formed but for bit 7 of PSW, whose codes are EI and DI. -/
theorem wfSetClr_sfr {bit : BitVec 3} {off : Byte} (h : ¬ (bit = 7 ∧ off = 0xFA)) :
    BitLoc.wfSetClr bit (.mem (.sfr off)) = true := by
  simp only [BitLoc.wfSetClr, MemOp.isIn, MemOp.cls, MemOp.sfr.injEq, Bool.and_eq_true, Bool.not_eq_true',
    Bool.and_eq_false_iff, decide_eq_false_iff_not]
  exact ⟨rfl, by tauto⟩

theorem sound_map3Low (bit : BitVec 3) : ∀ c ∈ map3Low bit, Sound 2 c := by
  have hset (off : Byte) : sized 3 (if bit = 7 ∧ off = 0xFA then .ei else .set1 (.mem (.sfr off)) bit) = true := by
    split
    · rfl
    · next h => simp [sized, Instr.wf, wfSetClr_sfr h, Instr.withEs, BitLoc.withEs, MemOp.withEs]; rfl
  have hclr (off : Byte) : sized 3 (if bit = 7 ∧ off = 0xFA then .di else .clr1 (.mem (.sfr off)) bit) = true := by
    split
    · rfl
    · next h => simp [sized, Instr.wf, wfSetClr_sfr h, Instr.withEs, BitLoc.withEs, MemOp.withEs]; rfl
  simp only [map3Low, List.forall_mem_cons, List.not_mem_nil, false_implies, implies_true, and_true]
  refine ⟨?_, ?_, ?_, ?_, ?_, ?_, ?_, ?_, ?_, ?_, .opB hset, .opB hclr, ?_, ?_, ?_, ?_⟩
  all_goals constructor; intros; rfl

theorem sound_ite {k : Nat} {p : Prop} [Decidable p] {c d : Cell} (hc : Sound k c) (hd : Sound k d) :
    Sound k (if p then c else d) := by
  split
  · exact hc
  · exact hd

theorem sound_map3High (bit : BitVec 3) : ∀ c ∈ map3High bit, Sound 2 c := by
  simp only [map3High, List.forall_mem_cons, List.not_mem_nil, false_implies, implies_true, and_true]
  refine ⟨sound_ite (.op0 rfl) (sound_ite (.op0 rfl) .blank), ?_, ?_, ?_, ?_, ?_, ?_, ?_,
    sound_ite (.op0 rfl) .blank, ?_, ?_, ?_, ?_, ?_, ?_, ?_⟩
  all_goals exact .op0 rfl

theorem sound_shiftCell {ok : Bool} {i : Instr} (hwf : ok = true → i.wf = true) (hsize : i.size = 2)
    (hes : i.withEs = none) : Sound 2 (shiftCell ok i) := by
  cases ok with
  | false => exact .blank
  | true => exact .op0 (by simp [sized, hwf rfl, hsize, hes])

theorem sound_map4 (hi : BitVec 4) : ∀ c ∈ map4 hi, Sound 2 c := by
  simp only [map4, List.forall_mem_cons, List.not_mem_nil, false_implies, implies_true, and_true]
  refine ⟨?_, ?_, ?_, ?_, ?_, ?_, .blank, sound_shiftCell ?_ rfl rfl, sound_shiftCell ?_ rfl rfl,
    sound_shiftCell ?_ rfl rfl, sound_shiftCell id rfl rfl, sound_shiftCell id rfl rfl, sound_shiftCell ?_ rfl rfl,
    sound_shiftCell ?_ rfl rfl, sound_shiftCell id rfl rfl, sound_shiftCell id rfl rfl⟩
  · exact sound_ite (.opBB fun _ _ => rfl) (.opBB fun _ _ => rfl)
  · exact sound_ite (.opB fun _ => rfl) (.opB fun _ => rfl)
  · exact sound_ite (.opBB fun _ _ => rfl) (.opBB fun _ _ => rfl)
  · exact sound_ite (.opB fun _ => rfl) (.opB fun _ => rfl)
  · exact sound_ite (.opBB fun _ _ => rfl) (.opBB fun _ _ => rfl)
  · exact sound_ite (.opB fun _ => rfl) (.opB fun _ => rfl)
  all_goals exact fun h => h

theorem sound_map3Cell (b : Byte) : Sound 2 (map3Cell b) := by
  rw [map3Cell]
  split
  · exact sound_cellAt (sound_map3High _) _
  · exact sound_cellAt (sound_map3Low _) _

theorem sized_of_decodePlain {bs : List Byte} {i : Instr} {n : Nat} (h : decodePlain bs = .ok (i, n)) :
    sized n i = true ∧ n ≤ bs.length := by
  unfold decodePlain at h
  split at h
  · cases h
  · split at h
    · split at h
      · cases h
      · exact (sound_gridCell sound_map2 _).read h
    · split at h
      · split at h
        · cases h
        · exact (sound_map3Cell _).read h
      · split at h
        · split at h
          · cases h
          · exact (sound_cellAt (sound_map4 _) _).read h
        · exact (sound_gridCell sound_map1 _).read h

theorem sized_spec {n : Nat} {i : Instr} (h : sized n i = true) :
    i.wf = true ∧ i.size = n ∧ n ≤ 4 ∧ ∀ j, i.withEs = some j → j.wf = true ∧ j.size = n + 1 := by
  simp only [sized, Bool.and_eq_true, beq_iff_eq, decide_eq_true_eq] at h
  obtain ⟨⟨⟨hwf, hsize⟩, hle⟩, hes⟩ := h
  refine ⟨hwf, hsize, hle, fun j hj => ?_⟩
  rw [hj] at hes
  simpa using hes

/-- Settles O3: a cell of one of the maps is sound, so what it reads is well-formed and has the length of its encoding; with
ES before it the same holds of the ES form, one byte longer; every other answer is the row PREFIX. -/
theorem decodeAnswersWellFormed : Obligations.DecodeAnswersWellFormed := by
  intro bs i n h
  match bs, h with
  | b :: bs, h =>
    rw [decode] at h
    split at h
    · cases hp : decodePlain bs with
      | ok x =>
        obtain ⟨j, m⟩ := x
        obtain ⟨hsized, hlen⟩ := sized_of_decodePlain hp
        obtain ⟨-, -, hle, hes⟩ := sized_spec hsized
        rw [hp] at h
        cases hj : j.withEs with
        | some k =>
          simp only [hj, Except.ok.injEq, Prod.mk.injEq] at h
          obtain ⟨rfl, rfl⟩ := h
          obtain ⟨hwf, hsize⟩ := hes k hj
          exact ⟨.inl hwf, hsize.symm, by omega, by simpa using hlen⟩
        | none =>
          simp only [hj, Except.ok.injEq, Prod.mk.injEq] at h
          obtain ⟨rfl, rfl⟩ := h
          exact ⟨.inr rfl, rfl, by decide, by simp⟩
      | error e =>
        rw [hp] at h
        have hprefix : (Instr.prefixAlone, 1) = (i, n) := by
          cases e with
          | truncated =>
            simp only at h
            split at h
            · exact Except.ok.inj h
            · cases h
          | unassignedMap1 | unassignedMap2 | unassignedMap3 | unassignedMap4 => exact Except.ok.inj h
        cases hprefix
        exact ⟨.inr rfl, rfl, by decide, by simp⟩
    · obtain ⟨hsized, hlen⟩ := sized_of_decodePlain h
      obtain ⟨hwf, hsize, hle, -⟩ := sized_spec hsized
      exact ⟨.inl hwf, hsize.symm, by omega, hlen⟩

end Sys2Proof.Laws.Decoding
end

section

/-! # From the stored bytes to the instruction (`20_memory.md` R76, `60_exceptions.md` R360, `48_cpu_control.md` R356)

A step in Run mode is the meaning of what the fetch decodes; the fetch sees the bytes of an encoding that lies in one fetch
region; 11H before anything but an ES form is the row PREFIX, which stops. -/

namespace Sys2Proof.Laws.Stepping
open Sys2Proof.Machine Sys2Proof.Laws.Decoding

set_option Elab.async false

/-! ### Words written out -/

/-- Settles O1: each word is read through its cell of a map. -/
theorem sampleWordsDecode : Obligations.SampleWordsDecode :=
  ⟨rfl, rfl, rfl, rfl, rfl, rfl, rfl, rfl, rfl, rfl, rfl⟩

/-! ### The step in Run mode -/

theorem step_of_fetch {s : State} {i : Instr} {n : Nat} (hreset : s.resetNow = false) (hmode : s.mode = .run)
    (hpick : pickRequest s s.pending = none) (hfetch : fetchAt s s.pc.toNat = .ok (i, n)) : step s = exec i s.tick := by
  rw [step, stepWith_run hreset hpick hmode, runInstr_ok hfetch]

/-- Settles O5: the step in Run mode, whose tick is the boundary that the statement writes out. -/
theorem stepRunsDecodedInstruction : Obligations.StepRunsDecodedInstruction :=
  fun _ _ _ hreset hmode hpick hfetch => step_of_fetch hreset hmode hpick hfetch

/-! ### The fetch of stored bytes -/

/-- The fetch of `n` bytes begins with the bytes that lie there in the fetch region, if there are no more than `n`. -/
theorem fetchBytes_of_stored {s : State} {r : FetchRegion} {bs : List Byte} {n a : Nat} (hlen : bs.length ≤ n)
    (h : ∀ k, k < bs.length → fetchRegion s.product (a + k) = some r ∧ memRead (a + k) s.mem = bs[k]?) :
    ∃ rest, (fetchBytes s r n a).1 = bs ++ rest := by
  induction bs generalizing n a with
  | nil => exact ⟨_, rfl⟩
  | cons b bs ih =>
    match n, hlen with
    | n + 1, hlen =>
      obtain ⟨hr, hm⟩ := h 0 (by simp)
      obtain ⟨rest, hrest⟩ := ih (n := n) (a := a + 1) (by simpa using hlen) fun k hk => by
        have hk' := h (k + 1) (by simpa using hk)
        rwa [Nat.add_comm k, ← Nat.add_assoc, Nat.add_comm 1, List.getElem?_cons_succ] at hk'
      refine ⟨rest, ?_⟩
      rw [Nat.add_zero] at hr hm
      simp only [fetchBytes, hr, hm, if_true, List.getElem?_cons_zero, hrest, List.cons_append]

/-- A well-formed instruction takes 1 to 5 bytes: no bytes decode to nothing, and the decoder reads no more than five. -/
theorem size_bounds {i : Instr} (h : i.wf = true) : 0 < i.size ∧ i.size ≤ 5 := by
  have hdec := decodes h []
  obtain ⟨-, -, hle, -⟩ := decodeAnswersWellFormed _ _ _ hdec
  refine ⟨?_, hle⟩
  by_contra hzero
  have hnil : encode i = [] := List.eq_nil_of_length_eq_zero (by rw [Instr.size] at hzero; omega)
  rw [hnil] at hdec
  cases hdec

theorem fetchAt_of_stored {s : State} {i : Instr} {r : FetchRegion} {a : Nat} (hwf : i.wf = true)
    (h : ∀ k, k < i.size → fetchRegion s.product (a + k) = some r ∧ memRead (a + k) s.mem = (encode i)[k]?) :
    fetchAt s a = .ok (i, i.size) := by
  obtain ⟨hpos, hle⟩ := size_bounds hwf
  obtain ⟨rest, hrest⟩ := fetchBytes_of_stored hle h
  have hregion : fetchRegion s.product a = some r := (h 0 hpos).1
  simp only [fetchAt, hregion, hrest, decodes hwf rest]

/-- Settles O6: the fetch sees the encoding, whatever bytes lie behind it, and the decoder gives the instruction back. -/
theorem stepRunsStoredBytes : Obligations.StepRunsStoredBytes :=
  fun _ _ _ hwf hreset hmode hpick h => step_of_fetch hreset hmode hpick (fetchAt_of_stored hwf h)

/-! ### PREFIX -/

theorem decode_prefix_es {bs : List Byte} {j k : Instr} {n : Nat} (h : decodePlain bs = .ok (j, n))
    (hes : j.withEs = some k) : decode (0x11 :: bs) = .ok (k, n + 1) := by
  rw [decode, if_pos rfl, h]
  simp only [hes]

theorem decode_prefix_noEs {bs : List Byte} {j : Instr} {n : Nat} (h : decodePlain bs = .ok (j, n))
    (hes : j.withEs = none) : decode (0x11 :: bs) = .ok (.prefixAlone, 1) := by
  rw [decode, if_pos rfl, h]
  simp only [hes]

theorem decode_prefix_truncated {bs : List Byte} (h : decodePlain bs = .error .truncated)
    (hop : opcodeWithoutEs bs = true) : decode (0x11 :: bs) = .ok (.prefixAlone, 1) := by
  rw [decode, if_pos rfl, h]
  exact if_pos hop

theorem decode_prefix_unassigned {bs : List Byte} {e : DecodeError} (h : decodePlain bs = .error e)
    (he : e ≠ .truncated) : decode (0x11 :: bs) = .ok (.prefixAlone, 1) := by
  rw [decode, if_pos rfl, h]
  cases e with
  | truncated => exact absurd rfl he
  | unassignedMap1 | unassignedMap2 | unassignedMap3 | unassignedMap4 => rfl

/-- Settles O4: the row PREFIX stops, and 11H is read as it before every answer of the maps but an ES form. -/
theorem prefixAloneIsIllegal : Obligations.PrefixAloneIsIllegal :=
  ⟨fun _ => rfl, fun _ _ hreset hmode hpick hfetch => step_of_fetch hreset hmode hpick hfetch,
    fun _ _ _ => decode_prefix_noEs, fun _ => decode_prefix_truncated, fun _ _ => decode_prefix_unassigned,
    fun _ => decode_prefix_unassigned (e := .unassignedMap1 0x11) rfl nofun, fun _ _ _ _ => decode_prefix_es,
    rfl, rfl, rfl, rfl, rfl⟩

end Sys2Proof.Laws.Stepping
end

section

/-! # Instructions that complete (`00_scope.md` R11, `20_memory.md` R70, R73, R80, R88)

What is left of an instruction once its load, store or read-modify-write has succeeded, and what `exec` answers when it then
ends with `PC <- next`. -/

namespace Sys2Proof.Laws.Completion
open Sys2Proof.Machine

set_option Elab.async false

/-! ### A read keeps the latch of PMC, PSW and the product -/

theorem byteRead_pmcWritten {s t : State} {a : Nat} {v : Byte} (h : ByteRead s a v t) : t.pmcWritten = s.pmcWritten :=
  (congrArg State.pmcWritten h.frame :)

theorem byteRead_psw {s t : State} {a : Nat} {v : Byte} (h : ByteRead s a v t) : t.psw = s.psw :=
  (congrArg State.psw h.frame :)

theorem byteRead_product {s t : State} {a : Nat} {v : Byte} (h : ByteRead s a v t) : t.product = s.product :=
  (congrArg State.product h.frame :)

theorem wordRead_pmcWritten {s t : State} {a : Nat} {v : Word} (h : WordRead s a v t) : t.pmcWritten = s.pmcWritten :=
  (congrArg State.pmcWritten h.frame :)

theorem wordRead_psw {s t : State} {a : Nat} {v : Word} (h : WordRead s a v t) : t.psw = s.psw :=
  (congrArg State.psw h.frame :)

theorem wordRead_product {s t : State} {a : Nat} {v : Word} (h : WordRead s a v t) : t.product = s.product :=
  (congrArg State.product h.frame :)

/-! ### The fetch window -/

theorem stale_of_fresh {i : Instr} {s : State} {as : List Nat} {a : Nat} (h : fresh i s as) (ha : a ∈ as) :
    stale s (nextPc i s) a = false := h a ha

/-- The fetch window is that of the product, which a read keeps. -/
theorem stale_after_read {i : Instr} {s u : State} {as : List Nat} {a : Nat} (hu : u.product = s.product)
    (h : fresh i s as) (ha : a ∈ as) : stale u (nextPc i s) a = false := by
  rw [stale_congr hu]
  exact h a ha

/-! ### Accesses that succeed -/

theorem outcome_loadByte {m : MemOp} {s t : State} {a : Nat} {v : Byte} (ha : byteAddr s m = .ok a)
    (hr : ByteRead s a v t) (k : Byte × State → Res State) : outcome (loadByte m s >>= k) = outcome (k (v, t)) := by
  rw [loadByte_iff.mpr ⟨a, ha, hr⟩]
  rfl

theorem outcome_loadWord {m : MemOp} {s t : State} {a : Nat} {v : Word} (ha : wordAddr s m = .ok a)
    (hr : WordRead s a v t) (k : Word × State → Res State) : outcome (loadWord m s >>= k) = outcome (k (v, t)) := by
  rw [loadWord_iff.mpr ⟨a, ha, hr⟩]
  rfl

theorem outcome_storeByte {i : Instr} {m : MemOp} {s t : State} {a : Nat} {v : Byte} (ha : byteAddr s m = .ok a)
    (hfresh : fresh i s [a]) (hw : ByteWritten s a v t) (k : State → Res State) :
    outcome (storeByte (nextPc i s) m v s >>= k) = outcome (k t) := by
  rw [storeByte_iff.mpr ⟨a, ha, stale_of_fresh hfresh (by simp), hw⟩]
  rfl

theorem outcome_storeWord {i : Instr} {m : MemOp} {s t : State} {a : Nat} {v : Word} (ha : wordAddr s m = .ok a)
    (hfresh : fresh i s [a, a + 1]) (hw : WordWritten s a v t) (k : State → Res State) :
    outcome (storeWord (nextPc i s) m v s >>= k) = outcome (k t) := by
  rw [storeWord_iff.mpr ⟨a, ha, ⟨stale_of_fresh hfresh (by simp), stale_of_fresh hfresh (by simp)⟩, hw⟩]
  rfl

theorem outcome_modifyByte {α : Type} {i : Instr} {m : MemOp} {s u t : State} {a : Nat} {v : Byte}
    {f : Byte → Byte × α} (ha : byteAddr s m = .ok a) (hr : ByteRead s a v u) (hfresh : fresh i s [a])
    (hw : ByteWritten u a (f v).1 t) (k : α × State → Res State) :
    outcome (modifyByte (nextPc i s) m f s >>= k) = outcome (k ((f v).2, t)) := by
  have hstale := stale_after_read (byteRead_product hr) hfresh (List.mem_singleton_self a)
  rw [modifyByte_iff.mpr ⟨a, v, u, ha, hr, hstale, hw, rfl⟩]
  rfl

theorem outcome_modifyWord {i : Instr} {m : MemOp} {s u t : State} {a : Nat} {v : Word} {f : Word → Word}
    (ha : wordAddr s m = .ok a) (hr : WordRead s a v u) (hfresh : fresh i s [a, a + 1])
    (hw : WordWritten u a (f v) t) (k : State → Res State) :
    outcome (modifyWord (nextPc i s) m f s >>= k) = outcome (k t) := by
  have hlow := stale_after_read (a := a) (wordRead_product hr) hfresh (by simp)
  have hhigh := stale_after_read (a := a + 1) (wordRead_product hr) hfresh (by simp)
  rw [modifyWord_iff.mpr ⟨a, v, u, ha, hr, ⟨hlow, hhigh⟩, hw⟩]
  rfl

/-! ### The end -/

/-- `harm` is what is left of the meaning of the instruction; the first write to PMC sets `PmcSettle` (R48). -/
theorem exec_of_retire {i : Instr} {s t : State} {inhibit : Bool} (harm : exec i s = outcome (retire i s t inhibit))
    (hflow : flows i s) :
    exec i s = .next { t with
      pc := nextPc i s, intInhibit := inhibit, pmcSettle := !s.pmcWritten && t.pmcWritten } := by
  rw [harm, outcome_eq_next, retire_iff]
  exact ⟨hflow, rfl⟩

/-- The same where PMC has not been written. -/
theorem exec_of_retire_kept {i : Instr} {s t : State} {inhibit : Bool}
    (harm : exec i s = outcome (retire i s t inhibit)) (hkept : t.pmcWritten = s.pmcWritten) (hflow : flows i s) :
    exec i s = .next { t with pc := nextPc i s, intInhibit := inhibit, pmcSettle := false } := by
  rw [harm, outcome_eq_next, retire_iff, finish_of_kept hkept]
  exact ⟨hflow, rfl⟩

end Sys2Proof.Laws.Completion
end

section

/-! # 8-bit and 16-bit transfer (`40_mov8.md`, `41_mov16.md`, `46_call_ret_stack.md` R303 to R307)

Every form is one read or one write of its operand, or both, and then the end of an instruction. -/

namespace Sys2Proof.Laws.Transfer
open Sys2Proof.Machine Sys2Proof.Laws.Sequential Sys2Proof.Laws.Completion

set_option Elab.async false

/-! ### Bytes -/

/-- Settles O14: each form ends right after its writes to registers of the bank, or to ES. -/
theorem byteRegisterTransfers : Obligations.ByteRegisterTransfers :=
  ⟨fun _ _ _ => exec_eq_next rfl rfl rfl, fun _ _ => exec_eq_next rfl rfl rfl, fun _ _ => exec_eq_next rfl rfl rfl,
   fun _ _ => exec_eq_next rfl rfl rfl, fun _ _ => exec_eq_next rfl rfl rfl,
   fun _ _ => exec_of_retire_kept rfl rfl, fun d s => exec_eq_next (t := s.setEs d) rfl rfl rfl⟩

theorem byteAddr_saddr (s : State) (off : Byte) : byteAddr s (.saddr off) = .ok (saddrAddr off) := rfl

/-- Settles O15: one load, then the end. -/
theorem byteLoads : Obligations.ByteLoads :=
  ⟨fun _ _ _ _ _ ha hr =>
    exec_of_retire_kept (outcome_loadByte ha hr _) ((State.setR8_pmcWritten ..).trans (byteRead_pmcWritten hr)),
   fun _ _ _ _ _ _ ha hr =>
    exec_of_retire_kept (outcome_loadByte ha hr _) ((State.setR8_pmcWritten ..).trans (byteRead_pmcWritten hr)),
   fun off s t v hr =>
    exec_of_retire_kept (t := t.setEs v) (outcome_loadByte (byteAddr_saddr s off) hr _)
      ((State.setEs_pmcWritten t v).trans (byteRead_pmcWritten hr))⟩

/-- Settles O16: one store, then the end. -/
theorem byteStores : Obligations.ByteStores :=
  ⟨fun _ _ _ _ _ ha hfresh hw => exec_of_retire (outcome_storeByte ha hfresh hw _),
   fun _ _ _ _ ha hfresh hw => exec_of_retire (outcome_storeByte ha hfresh hw _),
   fun _ _ _ _ ha hfresh hw => exec_of_retire (outcome_storeByte ha hfresh hw _),
   fun _ _ _ _ ha hfresh hw => exec_of_retire (outcome_storeByte ha hfresh hw _)⟩

/-- Settles O17: a read-modify-write that keeps the byte read for A, and a store before the flags. -/
theorem byteExchangeAndMovs : Obligations.ByteExchangeAndMovs :=
  ⟨fun m s _ _ _ _ ha hr hfresh hw =>
    exec_of_retire (outcome_modifyByte (i := .xchAM m) (f := fun v => (s.r8 s.bank .a, v)) ha hr hfresh hw _),
   fun _ _ s t _ ha hfresh hw =>
    exec_of_retire (t := t.setPsw (flagsMovs t.psw (s.r8 s.bank .a) (s.r8 s.bank .x)))
      (outcome_storeByte ha hfresh hw _)⟩

/-! ### Words -/

/-- Settles O20: one load, then the end. -/
theorem wordLoads : Obligations.WordLoads :=
  ⟨fun _ _ _ _ _ ha hr =>
    exec_of_retire_kept (outcome_loadWord ha hr _) ((State.setR16_pmcWritten ..).trans (wordRead_pmcWritten hr)),
   fun rp _ s t _ v ha hr =>
    exec_of_retire_kept (t := t.setR16 s.bank rp v) (outcome_loadWord ha hr _)
      ((State.setR16_pmcWritten ..).trans (wordRead_pmcWritten hr))⟩

/-- Settles O21: one store, then the end. -/
theorem wordStores : Obligations.WordStores :=
  ⟨fun _ _ _ _ _ ha hfresh hw => exec_of_retire (outcome_storeWord ha hfresh hw _),
   fun _ _ _ _ ha hfresh hw => exec_of_retire (outcome_storeWord ha hfresh hw _)⟩

/-! ### SP -/

theorem wordAddr_sp (s : State) : wordAddr s (.sfr 0xF8) = .ok 0xFFFF8 := rfl

theorem wordAddr_abs_sp (s : State) : wordAddr s (.abs false 0xFFF8) = .ok 0xFFFF8 := by
  have hea : ea s (.abs false 0xFFF8) = .ok 0xFFFF8 := by simp [ea, upper]
  rw [wordAddr, hea]
  rfl

theorem size_movwRM_abs (rp : Reg16) (w : Word) : (Instr.movwRM rp (.abs false w)).size = 3 := by cases rp <;> rfl

theorem region_spl (p : Product) : region p 0xFFFF8 = .cpu := region_cpu.mpr (by decide)

theorem region_sph (p : Product) : region p 0xFFFF9 = .cpu := region_cpu.mpr (by decide)

theorem devWord_sp (p : Product) : devWord p 0xFFFF8 = false := by simp [devWord, region_spl]

/-- A read of the word at FFFF8H gives SP. -/
theorem wordRead_sp (s : State) : WordRead s 0xFFFF8 s.sp s := by
  have hlow : ByteRead s 0xFFFF8 (lo8 s.sp) s := .stored (by simp [State.peek, region_spl, cpuRead]) (by simp [region_spl])
  have hhigh : ByteRead s 0xFFFF9 (hi8 s.sp) s := .stored (by simp [State.peek, region_sph, cpuRead]) (by simp [region_sph])
  have hword := WordRead.bytes _ _ _ _ (devWord_sp s.product) hlow hhigh
  rwa [word_lo_hi] at hword

/-- SPL is written with bit 0 cleared, SPH takes the high byte as it is. -/
theorem sp_of_bytes (w x : Word) :
    word (lo8 (word (lo8 w) (hi8 x) &&& 0xFFFE)) (hi8 w) &&& 0xFFFE = w &&& 0xFFFE := by
  ext j hj
  simp only [word, lo8, hi8, BitVec.getElem_and, BitVec.getElem_append, BitVec.getElem_extractLsb', BitVec.getLsbD_and,
    BitVec.getLsbD_append, BitVec.getLsbD_extractLsb']
  by_cases h8 : j < 8
  · simp [h8, BitVec.getLsbD_eq_getElem hj]
  · have hj8 : 8 + (j - 8) = j := by omega
    simp [h8, hj8, BitVec.getLsbD_eq_getElem hj]

/-- A write of the word at FFFF8H stores it with bit 0 cleared (R33). -/
theorem wordWritten_sp (s : State) (w : Word) : WordWritten s 0xFFFF8 w { s with sp := w &&& 0xFFFE } := by
  have hword := WordWritten.bytes _ _ (devWord_sp s.product) (.spl rfl) (.sph (v := hi8 w) rfl)
  rwa [sp_of_bytes w s.sp] at hword

/-- Settles O22: the encodings, the loads and stores of the word at FFFF8H, and the completion of an instruction that
writes SP alone. -/
theorem stackPointerForms : Obligations.StackPointerForms :=
  ⟨fun _ _ => rfl, ⟨rfl, rfl, rfl, rfl, rfl⟩, fun _ => ⟨rfl, rfl⟩,
   fun d s hflow hfresh =>
    exec_eq_next (t := { s with sp := d &&& 0xFFFE })
      (outcome_storeWord (wordAddr_sp s) hfresh (wordWritten_sp s d) _) rfl rfl hflow,
   fun s hflow hfresh =>
    exec_eq_next (t := { s with sp := s.r16 s.bank .ax &&& 0xFFFE })
      (outcome_storeWord (wordAddr_sp s) hfresh (wordWritten_sp s _) _) rfl rfl hflow,
   fun s => exec_eq_next (t := s.setR16 s.bank .ax s.sp) (outcome_loadWord (wordAddr_sp s) (wordRead_sp s) _) rfl rfl,
   fun rp s => exec_eq_next (t := s.setR16 s.bank rp s.sp) (outcome_loadWord (wordAddr_abs_sp s) (wordRead_sp s) _)
    (size_movwRM_abs rp 0xFFF8) rfl,
   fun d s => exec_eq_next (t := s.setSp (s.sp + d.zeroExtend 16)) rfl rfl rfl,
   fun d s => exec_eq_next (t := s.setSp (s.sp - d.zeroExtend 16)) rfl rfl rfl⟩

end Sys2Proof.Laws.Transfer
end

section

/-! # Operations (`42_alu8.md`, `43_alu16_mul.md`, `44_incdec_shift_rot.md`)

The shared shapes of the two-operand operations, the compares, INC and DEC, and the shifts as repeated one-bit steps. -/

namespace Sys2Proof.Laws.Arith
open Sys2Proof.Machine Sys2Proof.Laws.AddSub Sys2Proof.Laws.Sequential Sys2Proof.Laws.Completion
  Sys2Proof.Laws.Transfer

set_option Elab.async false

/-! ### The seven operations that write their destination (R200 to R207) -/

theorem aluTable_exec {mk : AluOp → Instr} {f : Byte → Byte → Byte → Byte × Byte}
    (h : (mk, f) ∈ Obligations.aluTable) (o : AluOp) (s : State) :
    exec (mk o) s = outcome (execAlu (mk o) f true o s) := by
  simp only [Obligations.aluTable, List.mem_cons, List.not_mem_nil, or_false, Prod.mk.injEq] at h
  obtain ⟨rfl, rfl⟩ | ⟨rfl, rfl⟩ | ⟨rfl, rfl⟩ | ⟨rfl, rfl⟩ | ⟨rfl, rfl⟩ | ⟨rfl, rfl⟩ |
    ⟨rfl, rfl⟩ := h
  all_goals rfl

theorem aluTable_encode {mk : AluOp → Instr} {f : Byte → Byte → Byte → Byte × Byte}
    (h : (mk, f) ∈ Obligations.aluTable) : ∃ n, ∀ o, encode (mk o) = encAlu n o := by
  simp only [Obligations.aluTable, List.mem_cons, List.not_mem_nil, or_false, Prod.mk.injEq] at h
  obtain ⟨rfl, -⟩ | ⟨rfl, -⟩ | ⟨rfl, -⟩ | ⟨rfl, -⟩ | ⟨rfl, -⟩ | ⟨rfl, -⟩ | ⟨rfl, -⟩ := h
  all_goals exact ⟨_, fun _ => rfl⟩

/-- The length of an operation is that of its operand form. -/
theorem aluTable_size {mk : AluOp → Instr} {f : Byte → Byte → Byte → Byte × Byte}
    (h : (mk, f) ∈ Obligations.aluTable) (o : AluOp) {k : Nat} (ho : ∀ n, (encAlu n o).length = k) :
    (mk o).size = k := by
  obtain ⟨n, hn⟩ := aluTable_encode h
  rw [Instr.size, hn, ho]

/-- Settles O24: the shared shape on registers, which reads no memory. -/
theorem byteOperationsOnRegisters : Obligations.ByteOperationsOnRegisters :=
  fun _ _ h =>
    ⟨fun d s => exec_eq_next (aluTable_exec h (.aImm d) s) (aluTable_size h _ fun _ => rfl) rfl,
     fun r s => exec_eq_next (aluTable_exec h (.aReg r) s) (aluTable_size h _ fun _ => rfl) rfl,
     fun r s => exec_eq_next (aluTable_exec h (.regA r) s) (aluTable_size h _ fun _ => rfl) rfl⟩

/-- What `saddr, #byte` is: a read-modify-write that keeps the new PSW. -/
theorem aluTable_exec_saddrImm {mk : AluOp → Instr} {f : Byte → Byte → Byte → Byte × Byte}
    (h : (mk, f) ∈ Obligations.aluTable) (off d : Byte) (s : State) :
    exec (mk (.saddrImm off d)) s = outcome
      (modifyByte (nextPc (mk (.saddrImm off d)) s) (.saddr off) (fun v => f s.psw v d) s >>= fun x =>
        retire (mk (.saddrImm off d)) s (x.2.setPsw x.1) false) :=
  aluTable_exec h (.saddrImm off d) s

/-- Settles O25: one load before the end, or one read-modify-write. -/
theorem byteOperationsOnMemory : Obligations.ByteOperationsOnMemory := by
  intro mk f h
  refine ⟨fun m s t a v ha hr => ?_, fun off d s u t v hr hfresh hw hflow => ?_⟩
  · exact exec_of_retire_kept (t := (t.setR8 s.bank .a (f s.psw (s.r8 s.bank .a) v).1).setPsw
        (f s.psw (s.r8 s.bank .a) v).2)
      ((aluTable_exec h (.aMem m) s).trans (outcome_loadByte ha hr _)) (byteRead_pmcWritten hr :)
  · have hsize : (mk (.saddrImm off d)).size = 3 := aluTable_size h _ fun _ => rfl
    have hnext := exec_of_retire (t := t.setPsw (f s.psw v d).2)
      ((aluTable_exec_saddrImm h off d s).trans
        (outcome_modifyByte (byteAddr_saddr s off) hr hfresh hw _)) hflow
    rw [nextPc, hsize] at hnext
    exact hnext

/-! ### CMP, CMP0, CMPS (R208 to R210) -/

/-- The difference is 0 exactly where the bytes are equal, so Z of CMPS is equality. -/
theorem sub8_z_eq (x v : Byte) : (sub8 x v false).z = (x == v) := by
  have hexact := sub8_exact x v false
  have hcy := sub8_cy_iff x v false
  have hres : (sub8 x v false).res = 0 ↔ (sub8 x v false).res.toNat = 0 := BitVec.toNat_inj.symm
  rw [Bool.eq_iff_iff, sub8_z_iff, hres, beq_iff_eq, ← BitVec.toNat_inj]
  cases hc : (sub8 x v false).cy with
  | false =>
    simp only [hc, bitNat_false, Bool.false_eq_true, false_iff] at hexact hcy
    omega
  | true =>
    simp only [hc, bitNat_true, bitNat_false, true_iff] at hexact hcy
    omega

theorem flagsCmps_eq (p a x v : Byte) :
    flagsCmps p a x v =
      setCY (setAC (setZ p (x == v)) (sub8 x v false).ac) (x != v || a == 0 || x == 0) := by
  have hz : ((sub8 x v false).res == 0) = (x == v) := sub8_z_eq x v
  rw [flagsCmps, sub8_z_eq, hz]
  rfl

theorem byteAddr_abs (s : State) (es : Bool) (w : Word) : byteAddr s (.abs es w) = .ok (upper s es + w.toNat) := rfl

/-- Settles O26: at most one load, then the flags and the end. -/
theorem byteCompares : Obligations.ByteCompares := by
  refine ⟨fun d s => ?_, fun r s => ?_, fun r s => ?_, fun m s t a v ha hr => ?_, fun off d s t v hr => ?_,
    fun es w d s t v hr => ?_, fun r s => ?_, fun m s t a v ha hr => ?_, fun es off s t a v ha hr => ?_⟩
  · exact exec_eq_next (t := s.setPsw _) rfl rfl rfl
  · exact exec_eq_next (t := s.setPsw _) rfl rfl rfl
  · exact exec_eq_next (t := s.setPsw _) rfl rfl rfl
  · exact exec_of_retire_kept (t := t.setPsw _) (outcome_loadByte ha hr _) (byteRead_pmcWritten hr :)
  · exact exec_of_retire_kept (t := t.setPsw _) (outcome_loadByte (byteAddr_saddr s off) hr _)
      (byteRead_pmcWritten hr :)
  · exact exec_of_retire_kept (t := t.setPsw _) (outcome_loadByte (byteAddr_abs s es w) hr _)
      (byteRead_pmcWritten hr :)
  · exact exec_eq_next (t := s.setPsw _) rfl rfl rfl
  · rw [← byteRead_psw hr]
    exact exec_of_retire_kept (t := t.setPsw _) (outcome_loadByte ha hr _) (byteRead_pmcWritten hr :)
  · rw [← byteRead_psw hr, ← flagsCmps_eq]
    exact exec_of_retire_kept (t := t.setPsw _) (outcome_loadByte ha hr _) (byteRead_pmcWritten hr :)

/-! ### ADDW, SUBW, CMPW (R230 to R233) -/

/-- The source of a 16-bit operation as the relations give it. -/
theorem loadAluW_ok {o : AluWOp} {s t : State} {v : Word}
    (h : (o = .imm v ∧ t = s) ∨ (∃ rp, o = .reg rp ∧ v = s.r16 s.bank rp ∧ t = s) ∨
      (∃ m a, o = .mem m ∧ wordAddr s m = .ok a ∧ WordRead s a v t)) :
    loadAluW o s = .ok (v, t) ∧ t.pmcWritten = s.pmcWritten := by
  obtain ⟨rfl, rfl⟩ | ⟨rp, rfl, rfl, rfl⟩ | ⟨m, a, rfl, ha, hr⟩ := h
  · exact ⟨rfl, rfl⟩
  · exact ⟨rfl, rfl⟩
  · exact ⟨loadWord_iff.mpr ⟨a, ha, hr⟩, wordRead_pmcWritten hr⟩

/-- `harm` is the meaning that `exec` gives the instruction. -/
theorem exec_of_aluW {i : Instr} {f : Word → Word → Arith16} {writes : Bool} {o : AluWOp} {s t : State} {v : Word}
    (harm : exec i s = outcome (execAluW i f writes o s)) (hload : loadAluW o s = .ok (v, t)) :
    exec i s = outcome (retire i s
      ((if writes then t.drawBit.2.setR16 s.bank .ax (f (s.r16 s.bank .ax) v).res else t.drawBit.2).setPsw
        (flags16 s.psw (f (s.r16 s.bank .ax) v) (Config.freeBit t.draws))) false) := by
  rw [harm, execAluW, hload]
  rfl

/-- Settles O27: the source is loaded, one bit is drawn, and the instruction ends. -/
theorem wordOperations : Obligations.WordOperations := by
  intro o s t v h
  obtain ⟨hload, hkept⟩ := loadAluW_ok h
  exact ⟨exec_of_retire_kept (t := State.setPsw _ _) (exec_of_aluW (f := add16) (writes := true) rfl hload) hkept,
    exec_of_retire_kept (t := State.setPsw _ _) (exec_of_aluW (f := sub16) (writes := true) rfl hload) hkept,
    exec_of_retire_kept (t := State.setPsw _ _) (exec_of_aluW (f := sub16) (writes := false) rfl hload) hkept⟩

/-! ### Increment and decrement (R241 to R244) -/

/-- The low nibble as a mask and as a remainder. -/
theorem lowNibble_beq (v k : Byte) : (v &&& 0x0F == k) = decide (v.toNat % 16 = k.toNat) := by
  have hand : (v &&& 0x0F).toNat = v.toNat % 16 := by
    rw [BitVec.toNat_and]
    exact Nat.and_two_pow_sub_one_eq_mod v.toNat 4
  rw [Bool.eq_iff_iff, beq_iff_eq, decide_eq_true_iff, ← BitVec.toNat_inj, hand]

/-- Settles O29: a register is written before the end, or a byte by one read-modify-write; the flags come last. -/
theorem byteIncrementDecrement : Obligations.ByteIncrementDecrement := by
  have h15 (v : Byte) := lowNibble_beq v 0x0F
  have h0 (v : Byte) := lowNibble_beq v 0x00
  simp only [Obligations.ByteIncrementDecrement, h15, h0]
  refine ⟨fun r s => ?_, fun r s => ?_, fun m s u t a v ha hr hfresh hw => ?_,
    fun m s u t a v ha hr hfresh hw => ?_⟩
  · exact exec_eq_next
      (t := (s.setR8 s.bank r (incByte s.psw (s.r8 s.bank r)).1).setPsw (incByte s.psw (s.r8 s.bank r)).2) rfl rfl rfl
  · exact exec_eq_next
      (t := (s.setR8 s.bank r (decByte s.psw (s.r8 s.bank r)).1).setPsw (decByte s.psw (s.r8 s.bank r)).2) rfl rfl rfl
  · exact exec_of_retire (t := t.setPsw _)
      (outcome_modifyByte (i := .incM m) (f := fun v => ((incByte s.psw v).1, v)) ha hr hfresh hw _)
  · exact exec_of_retire (t := t.setPsw _)
      (outcome_modifyByte (i := .decM m) (f := fun v => ((decByte s.psw v).1, v)) ha hr hfresh hw _)

/-- Settles O30: a pair is written before the end, or a word by one read-modify-write. -/
theorem wordIncrementDecrement : Obligations.WordIncrementDecrement :=
  ⟨fun _ _ => exec_eq_next rfl rfl rfl, fun _ _ => exec_eq_next rfl rfl rfl,
   fun m _ _ _ _ _ ha hr hfresh hw =>
    exec_of_retire (outcome_modifyWord (i := .incwM m) (f := (· + 1)) ha hr hfresh hw _),
   fun m _ _ _ _ _ ha hr hfresh hw =>
    exec_of_retire (outcome_modifyWord (i := .decwM m) (f := (· - 1)) ha hr hfresh hw _)⟩

/-! ### Shifts as repeated one-bit steps (R245 to R250), for every width -/

theorem ushiftRight_succ {w : Nat} (v : BitVec w) (n : Nat) :
    v >>> (n + 1) = v >>> n >>> 1 ∧ v.getLsbD n = (v >>> n).getLsbD 0 :=
  ⟨BitVec.shiftRight_add v n 1, by simp⟩

theorem sshiftRight_succ {w : Nat} (v : BitVec w) {n : Nat} (hn : n < w) :
    v.sshiftRight (n + 1) = (v.sshiftRight n).sshiftRight 1 ∧ v.getLsbD n = (v.sshiftRight n).getLsbD 0 := by
  refine ⟨BitVec.sshiftRight_add, ?_⟩
  rw [BitVec.getLsbD_sshiftRight]
  simp [hn, Nat.ne_zero_of_lt hn]

theorem shiftLeft_succ {w : Nat} (v : BitVec w) {n : Nat} (hn : n < w) :
    v <<< (n + 1) = v <<< n <<< 1 ∧ v.getLsbD (w - (n + 1)) = (v <<< n).getLsbD (w - 1) := by
  have hle : ¬ (w - 1 < n) := by omega
  have hsub : w - 1 - n = w - (n + 1) := by omega
  refine ⟨BitVec.shiftLeft_add v n 1, ?_⟩
  simp [hle, hsub, Nat.zero_lt_of_lt hn]

/-- The sign stays where the other bits move down. -/
theorem sshiftRight_one {w : Nat} (v : BitVec (w + 1)) :
    v.sshiftRight 1 = v >>> 1 ||| v &&& BitVec.twoPow (w + 1) w := by
  ext j hj
  simp only [BitVec.getElem_sshiftRight, BitVec.getElem_or, BitVec.getElem_ushiftRight, BitVec.getElem_and,
    BitVec.getElem_twoPow]
  by_cases hjw : j = w
  · subst hjw
    simp [BitVec.msb_eq_getLsbD_last]
  · have hlt : 1 + j < w + 1 := by omega
    simp [hlt, hjw]

theorem shiftLeft_one {w : Nat} (v : BitVec w) : v <<< 1 = v + v := by
  apply BitVec.eq_of_toNat_eq
  rw [BitVec.toNat_shiftLeft, Nat.shiftLeft_eq, pow_one, Nat.mul_two, BitVec.toNat_add]

/-- Settles O32: the value and the bit that leaves last, kind of shift by kind, at widths 8 and 16. -/
theorem shiftsRepeatOneBitSteps : Obligations.ShiftsRepeatOneBitSteps :=
  ⟨fun v n _ hn =>
    ⟨Prod.ext_iff.mpr (ushiftRight_succ v n), Prod.ext_iff.mpr (sshiftRight_succ v hn),
      Prod.ext_iff.mpr (shiftLeft_succ v hn)⟩,
   fun v n _ hn =>
    ⟨Prod.ext_iff.mpr (ushiftRight_succ v n), Prod.ext_iff.mpr (sshiftRight_succ v hn),
      Prod.ext_iff.mpr (shiftLeft_succ v hn)⟩,
   fun v => ⟨rfl, Prod.ext_iff.mpr ⟨sshiftRight_one v, rfl⟩, Prod.ext_iff.mpr ⟨shiftLeft_one v, rfl⟩⟩,
   fun v => ⟨rfl, Prod.ext_iff.mpr ⟨sshiftRight_one v, rfl⟩, Prod.ext_iff.mpr ⟨shiftLeft_one v, rfl⟩⟩⟩

end Sys2Proof.Laws.Arith
end

section

/-! # The bits of PSW (`10_state.md` R24 to R31)

A write of one bit, seen through a mask that does not have the bit; what `setRBS` and `setISP` write. -/

namespace Sys2Proof.Laws.PswBits
open Sys2Proof.Machine

set_option Elab.async false

/-- Settles O36: bit by bit, a mask of one bit. -/
theorem setBitWritesOneBit : Obligations.SetBitWritesOneBit := by
  intro v n j b hn hj
  rw [setBit8, ← BitVec.twoPow_eq]
  by_cases hjn : j = n
  · subst hjn
    cases b <;> simp [hj]
  · cases b <;> simp [hj, hjn]

/-- A mask without the bit does not see the write. -/
theorem setBit8_and {v m : Byte} {n : Nat} {b : Bool} (hm : m.getLsbD n = false) : setBit8 v n b &&& m = v &&& m := by
  rw [setBit8, ← BitVec.twoPow_eq]
  ext j hj
  by_cases hjn : j = n
  · subst hjn
    rw [BitVec.getLsbD_eq_getElem hj] at hm
    simp [hm]
  · cases b <;> simp [hjn]

/-! ### Changes within a mask -/

/-- PSW goes from `p` to `q` with no change outside the bits of `m`. -/
def Within (m p q : Byte) : Prop := q &&& ~~~m = p &&& ~~~m

theorem Within.refl (m p : Byte) : Within m p p := rfl

/-- Two changes are one within both masks. -/
theorem Within.trans {m n p q r : Byte} (hpq : Within m p q) (hqr : Within n q r) : Within (m ||| n) p r := by
  have hmask : ~~~(m ||| n) = ~~~m &&& ~~~n := BitVec.not_or
  calc r &&& ~~~(m ||| n)
    _ = (r &&& ~~~n) &&& ~~~m := by rw [hmask, BitVec.and_comm (~~~m), BitVec.and_assoc]
    _ = (q &&& ~~~m) &&& ~~~n := by rw [hqr, BitVec.and_assoc, BitVec.and_assoc, BitVec.and_comm (~~~n)]
    _ = p &&& ~~~(m ||| n) := by rw [hpq, hmask, BitVec.and_assoc]

theorem within_all (p q : Byte) : Within 0xFF p q := by
  have hnone : ~~~(0xFF : Byte) = 0#8 := by decide
  rw [Within, hnone, BitVec.and_zero, BitVec.and_zero]

theorem within_setBit8 (p : Byte) {n : Nat} (hn : n < 8) (b : Bool) : Within (1#8 <<< n) p (setBit8 p n b) :=
  setBit8_and (by rw [← BitVec.twoPow_eq]; simp [hn])

theorem within_setCY (p : Byte) (b : Bool) : Within 0x01 p (setCY p b) := within_setBit8 p (n := 0) (by decide) b

theorem within_setZ (p : Byte) (b : Bool) : Within 0x40 p (setZ p b) := within_setBit8 p (n := 6) (by decide) b

theorem within_setAC (p : Byte) (b : Bool) : Within 0x10 p (setAC p b) := within_setBit8 p (n := 4) (by decide) b

theorem within_setIE (p : Byte) (b : Bool) : Within 0x80 p (setIE p b) := within_setBit8 p (n := 7) (by decide) b

theorem within_setRBS (p : Byte) (n : BitVec 2) : Within 0x28 p (setRBS p n) :=
  (within_setBit8 p (n := 5) (by decide) _).trans (within_setBit8 _ (n := 3) (by decide) _)

/-- Z, AC and CY are all that an add, a subtract or a compare writes. -/
theorem within_zAcCy (p : Byte) (z ac cy : Bool) : Within 0x51 p (setCY (setAC (setZ p z) ac) cy) :=
  ((within_setZ p z).trans (within_setAC _ ac)).trans (within_setCY _ cy)

/-! ### RBS and ISP -/

/-- Two bits are equal where their upper and their lower ones are. -/
theorem bitVec2_eq_iff (m n : BitVec 2) : m = n ↔ m.getLsbD 1 = n.getLsbD 1 ∧ m.getLsbD 0 = n.getLsbD 0 := by
  constructor
  · rintro rfl
    exact ⟨rfl, rfl⟩
  · rintro ⟨h1, h0⟩
    refine BitVec.eq_of_getLsbD_eq fun j hj => ?_
    interval_cases j
    · exact h0
    · exact h1

theorem pswRBS_bits (p : Byte) : (pswRBS p).getLsbD 1 = p.getLsbD 5 ∧ (pswRBS p).getLsbD 0 = p.getLsbD 3 := by
  rw [pswRBS, BitVec.getLsbD_append, BitVec.getLsbD_append]
  simp

theorem pswISP_bits (p : Byte) : (pswISP p).getLsbD 1 = p.getLsbD 2 ∧ (pswISP p).getLsbD 0 = p.getLsbD 1 := by
  simp [pswISP]

/-- The bank that SEL writes is the one that PSW then names. -/
theorem pswRBS_setRBS (p : Byte) (n : BitVec 2) : pswRBS (setRBS p n) = n := by
  obtain ⟨h1, h0⟩ := pswRBS_bits (setRBS p n)
  rw [bitVec2_eq_iff, h1, h0, setRBS, setBitWritesOneBit _ _ _ _ (by decide) (by decide),
    setBitWritesOneBit _ _ _ _ (by decide) (by decide), setBitWritesOneBit _ _ _ _ (by decide) (by decide)]
  exact ⟨rfl, rfl⟩

/-- With ISP1, what is written to ISP is what PSW then has as ISP. -/
theorem pswISP_setISP (p : Byte) (n : BitVec 2) : pswISP (setISP true p n) = n := by
  obtain ⟨h1, h0⟩ := pswISP_bits (setISP true p n)
  rw [bitVec2_eq_iff, h1, h0, setISP, if_pos rfl, setBitWritesOneBit _ _ _ _ (by decide) (by decide),
    setBitWritesOneBit _ _ _ _ (by decide) (by decide), setBitWritesOneBit _ _ _ _ (by decide) (by decide),
    if_neg (by decide : ¬ (1 = 2)), setBitWritesOneBit _ _ _ _ (by decide) (by decide)]
  exact ⟨rfl, rfl⟩

/-- Without ISP1, bit 0 alone is written (log 33). -/
theorem getLsbD_setISP (p : Byte) (n : BitVec 2) : (setISP false p n).getLsbD 1 = n.getLsbD 0 := by
  rw [setISP, if_neg Bool.false_ne_true, setBitWritesOneBit _ _ _ _ (by decide) (by decide), if_pos rfl]

end Sys2Proof.Laws.PswBits
end

section

/-! # Bits, branches, skips and CPU control (`45_bit.md`, `47_branch_skip.md`, `48_cpu_control.md`)

The byte of a bit operand is A or one read; what follows is a write of CY, of one bit, a branch or a skip. -/

namespace Sys2Proof.Laws.BitsBranches
open Sys2Proof.Machine Sys2Proof.Laws.Sequential Sys2Proof.Laws.Completion Sys2Proof.Laws.Decoding
  Sys2Proof.Laws.PswBits

set_option Elab.async false

/-! ### The bit operand -/

/-- The bit's byte is A, or what one read of the operand gives (`45_bit.md` R270). -/
def BitByte (l : BitLoc) (s t : State) (v : Byte) : Prop :=
  (l = .a ∧ v = s.r8 s.bank .a ∧ t = s) ∨ (∃ m a, l = .mem m ∧ byteAddr s m = .ok a ∧ ByteRead s a v t)

theorem bitByte_mem {m : MemOp} {s t : State} {a : Nat} {v : Byte} (ha : byteAddr s m = .ok a) (hr : ByteRead s a v t) :
    BitByte (.mem m) s t v := .inr ⟨m, a, rfl, ha, hr⟩

theorem bitByte_pmcWritten {l : BitLoc} {s t : State} {v : Byte} (h : BitByte l s t v) :
    t.pmcWritten = s.pmcWritten := by
  obtain ⟨-, -, rfl⟩ | ⟨_, _, -, -, hr⟩ := h
  · rfl
  · exact byteRead_pmcWritten hr

theorem outcome_loadBitByte {l : BitLoc} {s t : State} {v : Byte} (h : BitByte l s t v)
    (k : Byte × State → Res State) : outcome (loadBitByte l s >>= k) = outcome (k (v, t)) := by
  rw [loadBitByte_iff.mpr h]
  rfl

theorem bitByte_psw {l : BitLoc} {s t : State} {v : Byte} (h : BitByte l s t v) : t.psw = s.psw := by
  obtain ⟨-, -, rfl⟩ | ⟨_, _, -, -, hr⟩ := h
  · rfl
  · exact byteRead_psw hr

/-! ### The forms whose destination is CY -/

/-- `harm` is the meaning that `exec` gives the instruction. -/
theorem exec_of_toCy {i : Instr} {f : Bool → Bool → Bool} {l : BitLoc} {n : BitVec 3} {s t : State} {v : Byte}
    (harm : exec i s = outcome (execToCy i f l n s)) (h : BitByte l s t v) (hflow : flows i s) :
    exec i s = .next { t with
      psw := setCY s.psw (f (pswCY s.psw) (v.getLsbD n.toNat))
      pc := nextPc i s, intInhibit := false, pmcSettle := false } := by
  have hnext := exec_of_retire_kept (t := t.setCy (f (pswCY s.psw) (v.getLsbD n.toNat)))
    (harm.trans (outcome_loadBitByte h _)) (bitByte_pmcWritten h :) hflow
  rw [hnext, ← bitByte_psw h]
  rfl

/-- Settles O34: the byte is loaded, CY is written, and the instruction ends. -/
theorem bitsToCarry : Obligations.BitsToCarry :=
  fun _ _ _ _ _ h =>
    ⟨exec_of_toCy (f := fun _ b => b) rfl h, exec_of_toCy (f := and) rfl h, exec_of_toCy (f := or) rfl h,
      exec_of_toCy (f := xor) rfl h⟩

/-! ### The forms whose destination is a bit -/

/-- What the three forms are; on A each takes two bytes. -/
theorem exec_bitWrite {i : Instr} {b : Bool} {l : BitLoc} {n : BitVec 3} {s : State}
    (h : (i = .mov1Bit l n ∧ b = pswCY s.psw) ∨ (i = .set1 l n ∧ b = true) ∨ (i = .clr1 l n ∧ b = false)) :
    exec i s = outcome (execToBit i b l n s) ∧ (l = .a → i.size = 2) := by
  obtain ⟨rfl, rfl⟩ | ⟨rfl, rfl⟩ | ⟨rfl, rfl⟩ := h
  all_goals exact ⟨rfl, by rintro rfl; rfl⟩

/-- Settles O35: A is written, or the byte by one read-modify-write, and the instruction ends. -/
theorem bitWrites : Obligations.BitWrites := by
  intro i b l n s h hflow
  obtain ⟨harm, hsize⟩ := exec_bitWrite h
  constructor
  · rintro rfl
    exact exec_eq_next harm (hsize rfl) rfl hflow
  · rintro m u t a v rfl ha hr hfresh hw
    refine exec_of_retire (harm.trans ?_) hflow
    have hstale := stale_after_read (byteRead_product hr) hfresh (List.mem_singleton_self a)
    rw [execToBit, modifyBit_iff.mpr (.inr ⟨m, a, v, u, rfl, ha, hr, hstale, hw⟩)]
    simp only [isPswBit, BitLoc.mem.injEq]
    rfl

/-! ### Branches (`47_branch_skip.md` R320 to R333) -/

/-- `harm` is the meaning that `exec` gives a branch that is taken. -/
theorem exec_of_branchTo {i : Instr} {s t : State} {target : Addr} {inhibit : Bool}
    (harm : exec i s = outcome (branchTo s t target inhibit))
    (hsame : crosses s.product s.pc.toNat target.toNat = false) :
    exec i s = .next { t with
      pc := target, intInhibit := inhibit, pmcSettle := !s.pmcWritten && t.pmcWritten } := by
  rw [harm, outcome_eq_next, branchTo_iff]
  exact ⟨hsame, rfl⟩

theorem exec_of_branchTo_kept {i : Instr} {s t : State} {target : Addr} {inhibit : Bool}
    (harm : exec i s = outcome (branchTo s t target inhibit)) (hkept : t.pmcWritten = s.pmcWritten)
    (hsame : crosses s.product s.pc.toNat target.toNat = false) :
    exec i s = .next { t with pc := target, intInhibit := inhibit, pmcSettle := false } := by
  rw [harm, outcome_eq_next, branchTo_iff, finish_of_kept hkept]
  exact ⟨hsame, rfl⟩

/-- `harm` is the meaning of a branch that no fetch region stops. -/
theorem exec_of_finish {i : Instr} {s : State} {target : Addr} (harm : exec i s = outcome (.ok (finish s s target false))) :
    exec i s = .next { s with pc := target, intInhibit := false, pmcSettle := false } := by
  rw [harm, finish_of_kept rfl]
  rfl

/-- The address with CS in bits 19 to 16 (R320, `46_call_ret_stack.md` R290). -/
theorem addrOf_word (w : Word) (c : Byte) : addrOf (lo8 w) (hi8 w) c = c.extractLsb' 0 4 ++ w := by
  have hassoc : addrOf (lo8 w) (hi8 w) c = c.extractLsb' 0 4 ++ word (lo8 w) (hi8 w) := BitVec.append_assoc
  rw [hassoc, word_lo_hi]

/-- Settles O44: the cells, and a branch that no fetch region stops. -/
theorem unconditionalBranches : Obligations.UnconditionalBranches :=
  ⟨rfl, fun _ => rfl, fun _ _ => ⟨rfl, rfl⟩, fun _ _ _ => rfl,
   fun s => exec_of_finish (by rw [← addrOf_word]; rfl), fun _ _ => exec_of_finish rfl, fun _ _ => exec_of_finish rfl,
   fun _ _ => exec_of_branchTo_kept rfl rfl, fun _ _ => exec_of_branchTo_kept rfl rfl⟩

theorem exec_condition {i : Instr} {c : Bool} {d : Byte} {s : State} (h : (i, c) ∈ Obligations.conditions d s.psw) :
    exec i s = outcome (branchIf i c d s) := by
  simp only [Obligations.conditions, ← Bool.not_or, List.mem_cons, List.not_mem_nil, or_false, Prod.mk.injEq] at h
  obtain ⟨rfl, rfl⟩ | ⟨rfl, rfl⟩ | ⟨rfl, rfl⟩ | ⟨rfl, rfl⟩ | ⟨rfl, rfl⟩ | ⟨rfl, rfl⟩ := h
  all_goals rfl

/-- Settles O45: the cells, and a branch or the end of the instruction, by the condition. -/
theorem conditionalBranches : Obligations.ConditionalBranches := by
  refine ⟨fun d => ⟨rfl, rfl, rfl, rfl, rfl, rfl⟩, fun i c d s h => ⟨?_, ?_⟩⟩
  · rintro rfl
    exact exec_of_branchTo_kept (exec_condition h) rfl
  · rintro rfl
    exact exec_of_retire_kept (exec_condition h) rfl

/-- Settles O46: the byte is loaded, and its bit decides between the branch and the end of the instruction. -/
theorem bitBranches : Obligations.BitBranches := by
  intro i want l n d s t v hi h
  have hkept := bitByte_pmcWritten h
  have harm : exec i s = outcome (if v.getLsbD n.toNat = want then branchTo s t (rel8 i s d) false
      else retire i s t false) := by
    obtain ⟨rfl, rfl⟩ | ⟨rfl, rfl⟩ := hi
    · exact outcome_loadBitByte h _
    · refine (outcome_loadBitByte h _).trans ?_
      cases hb : v.getLsbD n.toNat <;> simp [hb]
  constructor
  · intro hbit
    rw [if_pos hbit] at harm
    exact exec_of_branchTo_kept harm hkept
  · intro hbit
    rw [if_neg (by simp [hbit])] at harm
    exact exec_of_retire_kept harm hkept

/-! ### BTCLR (R333) -/

theorem exec_btclr_clear {l : BitLoc} {n : BitVec 3} {d : Byte} {s u t : State} {v : Byte} (h : BitByte l s u v)
    (hbit : v.getLsbD n.toNat = true) (hclear : clearBit (nextPc (.btclr l n d) s) l n v s u = .ok t) :
    exec (.btclr l n d) s = outcome (branchTo s t (rel8 (.btclr l n d) s d) (isPswBit l)) := by
  refine (outcome_loadBitByte h _).trans ?_
  simp only [hbit, if_true, hclear]
  rfl

theorem exec_btclr_keep {l : BitLoc} {n : BitVec 3} {d : Byte} {s u : State} {v : Byte} (h : BitByte l s u v)
    (hbit : v.getLsbD n.toNat = false) :
    exec (.btclr l n d) s = outcome (retire (.btclr l n d) s u (isPswBit l)) := by
  refine (outcome_loadBitByte h _).trans ?_
  simp only [hbit, Bool.false_eq_true, if_false]

/-- The store of BTCLR is at the address of its read. -/
theorem clearBit_mem {i : Instr} {m : MemOp} {n : BitVec 3} {s u t : State} {a : Nat} {v : Byte}
    (ha : byteAddr s m = .ok a) (hr : ByteRead s a v u) (hfresh : fresh i s [a])
    (hw : ByteWritten u a (setBit8 v n.toNat false) t) : clearBit (nextPc i s) (.mem m) n v s u = .ok t := by
  have hstale := stale_after_read (byteRead_product hr) hfresh (List.mem_singleton_self a)
  simp only [clearBit, bind_ok, store8_iff]
  exact ⟨a, ha, hstale, hw⟩

theorem isPswBit_mem (m : MemOp) : isPswBit (.mem m) = decide (m = .sfr 0xFA) := by
  simp only [isPswBit, BitLoc.mem.injEq]

/-- Settles O47: the byte is loaded; where its bit is 1 it is written back and the branch taken. -/
theorem bitTestAndClear : Obligations.BitTestAndClear := by
  refine ⟨fun n d s => ⟨fun hbit => ?_, fun hbit => ?_⟩,
    fun m n d s u t a v ha hr => ⟨fun hbit hfresh hw => ?_, fun hbit => ?_⟩⟩
  · exact exec_of_branchTo_kept (exec_btclr_clear (.inl ⟨rfl, rfl, rfl⟩) hbit rfl) rfl
  · exact exec_eq_next (exec_btclr_keep (.inl ⟨rfl, rfl, rfl⟩) hbit) rfl rfl
  · rw [← isPswBit_mem]
    exact exec_of_branchTo (exec_btclr_clear (bitByte_mem ha hr) hbit (clearBit_mem ha hr hfresh hw))
  · rw [← isPswBit_mem]
    exact exec_of_retire_kept (exec_btclr_keep (bitByte_mem ha hr) hbit) (byteRead_pmcWritten hr)

/-! ### Skips (R334 to R340) -/

theorem exec_skip {i : Instr} {c : Bool} {s : State} (h : (i, c) ∈ Obligations.skips s.psw) :
    exec i s = outcome (skipIf i c s) ∧ nextPc i s = s.pc + 2 := by
  simp only [Obligations.skips, ← Bool.not_or, List.mem_cons, List.not_mem_nil, or_false, Prod.mk.injEq] at h
  obtain ⟨rfl, rfl⟩ | ⟨rfl, rfl⟩ | ⟨rfl, rfl⟩ | ⟨rfl, rfl⟩ | ⟨rfl, rfl⟩ | ⟨rfl, rfl⟩ := h
  all_goals exact ⟨rfl, rfl⟩

/-- A taken skip whose next instruction lies in its fetch region stops where the fetch of that one does. -/
theorem skipIf_fetch_error {i : Instr} {s : State} {f : Fault} (hflow : flows i s)
    (hfetch : fetchAt s (nextPc i s).toNat = .error f) : skipIf i true s = .error f := by
  rw [skipIf, if_pos rfl, if_neg (by rw [hflow]; exact Bool.false_ne_true), hfetch]
  rfl

/-- It stops at the row PREFIX as well (log 26). -/
theorem skipIf_prefixAlone {i : Instr} {s : State} {n : Nat} (hflow : flows i s)
    (hfetch : fetchAt s (nextPc i s).toNat = .ok (.prefixAlone, n)) : skipIf i true s = .error .illegalEncoding := by
  rw [skipIf, if_pos rfl, if_neg (by rw [hflow]; exact Bool.false_ne_true), hfetch]
  rfl

/-- Settles O48: the cells, and the end of the instruction or the fetch of what is skipped, by the condition. -/
theorem conditionalSkips : Obligations.ConditionalSkips := by
  refine ⟨⟨rfl, rfl, rfl, rfl, rfl, rfl⟩, fun i c s h hflow => ?_⟩
  obtain ⟨harm, hnext⟩ := exec_skip h
  rw [← hnext]
  refine ⟨?_, ?_, ?_⟩
  · rintro rfl
    exact exec_of_retire_kept harm rfl hflow
  · rintro j n rfl hfetch hj hsame
    rw [harm, outcome_eq_next, skipIf_iff]
    exact .inl ⟨rfl, hflow, j, n, hfetch, hj, hsame, (finish_of_kept rfl).symm⟩
  · rintro rfl hfetch
    rw [harm, outcome_eq_fault]
    obtain hfetch | ⟨n, hfetch⟩ := hfetch
    · exact skipIf_fetch_error hflow hfetch
    · exact skipIf_prefixAlone hflow hfetch

/-! ### CPU control (`48_cpu_control.md`) -/

theorem decode_sel (n : BitVec 2) : decode [0x61, 0b11#2 ++ n ++ 0xF#4] = .ok (.sel n, 2) := by
  have hbyte : ∀ n : BitVec 2, 0b11#2 ++ n ++ 0xF#4 = (0xCF + n.zeroExtend 8 <<< 4 : Byte) := by decide
  rw [hbyte]
  exact decodes (i := .sel n) rfl []

/-- Settles O49: the encodings, and the end of an instruction that writes PSW or the mode. -/
theorem controlInstructions : Obligations.ControlInstructions :=
  ⟨decode_sel, ⟨rfl, rfl, rfl, rfl⟩,
   fun n s hflow =>
    ⟨setRBS s.psw n, pswRBS_setRBS s.psw n, within_setRBS s.psw n,
      exec_eq_next (t := s.setPsw (setRBS s.psw n)) rfl rfl rfl hflow⟩,
   fun s => exec_eq_next (t := s.setPsw (setIE s.psw true)) rfl rfl rfl,
   fun s => exec_eq_next (t := s.setPsw (setIE s.psw false)) rfl rfl rfl,
   fun s => exec_eq_next (t := { s with mode := .halt }) rfl rfl rfl,
   fun s => exec_eq_next (t := { s with mode := .stop }) rfl rfl rfl⟩

end Sys2Proof.Laws.BitsBranches
end

section

/-! # Calls and returns (`46_call_ret_stack.md` R290 to R298, `10_state.md` R35)

A call or an exception leaves the frame of four bytes below the old SP; a return takes it from the new SP up. -/

namespace Sys2Proof.Laws.CallReturn
open Sys2Proof.Machine Sys2Proof.Laws.Sequential Sys2Proof.Laws.Completion Sys2Proof.Laws.Decoding
  Sys2Proof.Laws.ShiftRotate Sys2Proof.Laws.BitsBranches

set_option Elab.async false

/-! ### The frame of four bytes -/

theorem stackOk_frame4 {s : State} :
    stackOk s [-1, -2, -3, -4] = true ↔ ∀ a ∈ frame4 s, inStack s.product a = true := by
  simp [stackOk_iff, frame4]

theorem stackStale_frame4 {i : Instr} {s : State} :
    stackStale s (nextPc i s) [-1, -2, -3, -4] = false ↔ fresh i s (frame4 s) := by
  simp [stackStale, fresh, frame4]

/-- A read moves neither SP nor the stack area. -/
theorem stackOk_after_read {s t : State} {a : Nat} {w : Word} (h : WordRead s a w t) (ks : List (BitVec 16)) :
    stackOk t ks = stackOk s ks := by
  rw [h.frame]
  rfl

theorem stackStale_after_read {s t : State} {a : Nat} {w : Word} (h : WordRead s a w t) (next : Addr)
    (ks : List (BitVec 16)) : stackStale t next ks = stackStale s next ks := by
  rw [h.frame]
  rfl

theorem wordRead_pc {s t : State} {a : Nat} {v : Word} (h : WordRead s a v t) : t.pc = s.pc :=
  (congrArg State.pc h.frame :)

theorem wordRead_sp_kept {s t : State} {a : Nat} {v : Word} (h : WordRead s a v t) : t.sp = s.sp :=
  (congrArg State.sp h.frame :)

theorem nextPc_after_read {s t : State} {a : Nat} {v : Word} (h : WordRead s a v t) (i : Instr) :
    nextPc i t = nextPc i s := by
  rw [nextPc, nextPc, wordRead_pc h]

theorem push4_eq {s : State} (ret : Addr) (top : Byte) (h : stackOk s [-1, -2, -3, -4] = true) :
    push4 ret top s = .ok (Obligations.pushed s ret top) := push4_iff.mpr ⟨h, rfl⟩

/-- A call writes no PMC. -/
theorem finish_pushed (s : State) (ret target : Addr) (top : Byte) (inhibit : Bool) :
    finish s (Obligations.pushed s ret top) target inhibit =
      { Obligations.pushed s ret top with pc := target, intInhibit := inhibit, pmcSettle := false } :=
  finish_of_kept rfl

/-! ### Calls -/

theorem callTo_eq {i : Instr} {s : State} (target : Addr) (hok : stackOk s [-1, -2, -3, -4] = true)
    (hstale : stackStale s (nextPc i s) [-1, -2, -3, -4] = false) :
    callTo i target s = .ok (finish s (Obligations.pushed s (nextPc i s) 0x00) target false) :=
  callTo_iff.mpr ⟨hstale, _, push4_eq _ _ hok, rfl⟩

/-- `harm` is the meaning of a call to `target`, `ret` its return address. -/
theorem exec_of_callTo {i : Instr} {s : State} {target ret : Addr} (harm : exec i s = outcome (callTo i target s))
    (hret : nextPc i s = ret) (hin : ∀ a ∈ frame4 s, inStack s.product a = true) (hfresh : fresh i s (frame4 s)) :
    exec i s =
      .next { Obligations.pushed s ret 0x00 with pc := target, intInhibit := false, pmcSettle := false } := by
  subst hret
  rw [harm, callTo_eq target (stackOk_frame4.mpr hin) (stackStale_frame4.mpr hfresh), finish_pushed]
  rfl

/-- `CALL $!addr20` is a call and a relative branch (`20_memory.md` R77). -/
theorem exec_callRel {d : Word} {s : State} (hin : ∀ a ∈ frame4 s, inStack s.product a = true)
    (hfresh : fresh (.callRel d) s (frame4 s)) :
    exec (.callRel d) s = outcome (branchTo s (finish s (Obligations.pushed s (nextPc (.callRel d) s) 0x00)
      (rel16 (.callRel d) s d) false) (rel16 (.callRel d) s d) false) := by
  have hcall := callTo_eq (i := .callRel d) (rel16 (.callRel d) s d) (stackOk_frame4.mpr hin) (stackStale_frame4.mpr hfresh)
  change outcome (callTo (.callRel d) _ s >>= _) = _
  rw [hcall]
  rfl

theorem decode_callR (rp : Reg16) : decode [0x61, 0xCA + 0x10 * rp.code] = .ok (.callR rp, 2) := by
  cases rp <;> rfl

/-- Settles O38: the cells, and the frame and the target of each form. -/
theorem calls : Obligations.Calls :=
  ⟨decode_callR, fun _ _ => ⟨rfl, rfl⟩, fun _ _ _ => rfl, fun s hin =>
    ⟨fun _ => exec_of_callTo (by rw [← addrOf_word]; rfl) rfl hin,
     fun _ hfresh hsame => exec_of_branchTo_kept (exec_callRel hin hfresh) rfl hsame,
     fun _ => exec_of_callTo rfl rfl hin, fun _ => exec_of_callTo rfl rfl hin⟩⟩

/-! ### CALLT -/

theorem decode_callt (k : BitVec 5) :
    decode [0x61, 1#1 ++ k.extractLsb' 0 3 ++ 1#2 ++ k.extractLsb' 3 2] = .ok (.callt k, 2) := by
  have hbyte : ∀ k : BitVec 5, 1#1 ++ k.extractLsb' 0 3 ++ 1#2 ++ k.extractLsb' 3 2 = calltByte k := by decide
  rw [hbyte]
  exact decodes (i := .callt k) rfl []

/-- Settles O39: the cell, and the call to the word that the table read gives. -/
theorem callTable : Obligations.CallTable := by
  refine ⟨decode_callt, fun k w s t hr hin hfresh => ?_⟩
  have hcall := callTo_eq (i := .callt k) (s := t) (abs16 w) ((stackOk_after_read hr _).trans (stackOk_frame4.mpr hin))
    (by rw [stackStale_after_read hr, nextPc_after_read hr]; exact stackStale_frame4.mpr hfresh)
  change outcome (read16 _ s >>= _) = _
  rw [read16_iff.mpr hr, outcome_eq_next]
  refine hcall.trans ?_
  rw [finish_pushed, nextPc_after_read hr]
  rfl

/-! ### Exceptions -/

/-- The entry where the vector can be read and the frame is in the stack area. -/
theorem enterException_eq {vector : Nat} {ret : Addr} {s t : State} {w : Word} (hr : WordRead s vector w t)
    (hin : ∀ a ∈ frame4 s, inStack s.product a = true) :
    enterException vector ret s =
      .ok { Obligations.pushed t ret s.psw with psw := setIE s.psw false, pc := abs16 w } := by
  refine enterException_iff.mpr ⟨w, t, Obligations.pushed t ret s.psw, hr, ?_, ?_⟩
  · rw [wordRead_psw hr]
    exact push4_eq _ _ ((stackOk_after_read hr _).trans (stackOk_frame4.mpr hin))
  · rw [← wordRead_psw hr]
    rfl

/-- Settles O40: the shared entry with the vector at 0007EH. -/
theorem softwareInterrupt : Obligations.SoftwareInterrupt := by
  refine ⟨decode_of_map2 rfl, fun w s t hr hin hfresh => ?_⟩
  have hpush : pushing (nextPc .brk s) [-1, -2, -3, -4] (enterException 0x7E (nextPc .brk s)) s =
      .ok { Obligations.pushed t (nextPc .brk s) s.psw with psw := setIE s.psw false, pc := abs16 w } :=
    pushing_iff.mpr ⟨stackStale_frame4.mpr hfresh, enterException_eq hr hin⟩
  change outcome (pushing _ _ _ s >>= _) = _
  rw [hpush, outcome_eq_next]
  refine congrArg Except.ok ((finish_of_kept ?_).trans rfl)
  exact (wordRead_pmcWritten hr :)

/-! ### Returns -/

theorem exec_ret {s : State} {a : Addr} (hok : stackOk s [0, 1, 2] = true) (ha : popAddr s = .ok a) :
    exec .ret s = .next { s with pc := a, sp := s.sp + 4, intInhibit := false, pmcSettle := false } := by
  change execRet s = _
  rw [execRet, if_pos hok, ha, outcome_eq_next]
  exact congrArg Except.ok (finish_of_kept rfl)

theorem exec_returnFromException {i : Instr} {s : State} {a : Addr} {p : Byte} (hi : i = .reti ∨ i = .retb)
    (hok : stackOk s [0, 1, 2, 3] = true) (ha : popAddr s = .ok a) (hp : memRead (stackAddr s 3) s.mem = some p) :
    exec i s = .next { s with pc := a, sp := s.sp + 4, psw := p, intInhibit := true, pmcSettle := false } := by
  have harm : exec i s = outcome (returnFromException s) := by
    obtain rfl | rfl := hi
    · rfl
    · rfl
  rw [harm, returnFromException, if_pos hok, ha, outcome_eq_next]
  refine bind_ok.mpr ⟨a, rfl, bind_ok.mpr ⟨p, popByte_iff.mpr hp, ?_⟩⟩
  exact congrArg Except.ok (finish_of_kept rfl)

/-- Settles O41: the cells, and the bytes that the frame has from SP up. -/
theorem returns : Obligations.Returns := by
  refine ⟨⟨decode_of_op0 (by decide) rfl, decode_of_map2 rfl, decode_of_map2 rfl⟩, ?_⟩
  intro s l h u hl hh hu h0 h1 h2
  have ha : popAddr s = .ok (addrOf l h u) := popAddr_iff.mpr ⟨l, h, u, hl, hh, hu, rfl⟩
  exact ⟨exec_ret (by simp only [stackOk, List.all_cons, List.all_nil, h0, h1, h2, Bool.and_self]) ha, fun i p hi hp h3 =>
    exec_returnFromException hi (by simp only [stackOk, List.all_cons, List.all_nil, h0, h1, h2, h3, Bool.and_self]) ha hp⟩

/-! ### A return right after a call -/

/-- `t` has below the SP of `s` the frame of four bytes with `ret` and `top`, and its own SP at the lowest of them. -/
structure Framed (s t : State) (ret : Addr) (top : Byte) : Prop where
  sp : t.sp = s.sp - 4
  product : t.product = s.product
  inStack : stackOk s [-1, -2, -3, -4] = true
  low : memRead (stackAddr s (-4)) t.mem = some (addrL ret)
  high : memRead (stackAddr s (-3)) t.mem = some (addrH ret)
  upper : memRead (stackAddr s (-2)) t.mem = some (addrS ret)
  top : memRead (stackAddr s (-1)) t.mem = some top

/-- The four bytes are different ones, so each is there. -/
theorem framed_pushed {s : State} {ret : Addr} {top : Byte} (hok : stackOk s [-1, -2, -3, -4] = true) :
    Framed s (Obligations.pushed s ret top) ret top := by
  have hne : ∀ {j k : BitVec 16}, j ≠ k → stackAddr s j ≠ stackAddr s k := fun hjk heq => hjk (stackAddr_inj heq)
  refine ⟨rfl, rfl, hok, memRead_memWrite_same .., ?_, ?_, ?_⟩
  · exact (memRead_memWrite_other _ _ (hne (by decide))).trans (memRead_memWrite_same ..)
  · exact (memRead_memWrite_other _ _ (hne (by decide))).trans <|
      (memRead_memWrite_other _ _ (hne (by decide))).trans (memRead_memWrite_same ..)
  · exact (memRead_memWrite_other _ _ (hne (by decide))).trans <|
      (memRead_memWrite_other _ _ (hne (by decide))).trans <|
      (memRead_memWrite_other _ _ (hne (by decide))).trans (memRead_memWrite_same ..)

section
variable {s t : State} {ret : Addr} {top : Byte}

theorem Framed.stackAddr (h : Framed s t ret top) (k : BitVec 16) : Machine.stackAddr t k = Machine.stackAddr s (k - 4) :=
  stackAddr_push h.sp

theorem Framed.sp_add (h : Framed s t ret top) : t.sp + 4 = s.sp := by
  rw [h.sp, BitVec.sub_add_cancel]

theorem Framed.stackOk_pop (h : Framed s t ret top) {ks : List (BitVec 16)} (hks : ks ⊆ [0, 1, 2, 3]) :
    stackOk t ks = true := by
  have hframe : ∀ k : BitVec 16, k ∈ ([0, 1, 2, 3] : List _) → k - 4 ∈ ([-1, -2, -3, -4] : List (BitVec 16)) := by
    intro k hk
    simp only [List.mem_cons, List.not_mem_nil, or_false] at hk
    obtain rfl | rfl | rfl | rfl := hk
    all_goals decide
  refine stackOk_iff.mpr fun k hk => ?_
  rw [h.stackAddr, h.product]
  exact stackOk_iff.mp h.inStack _ (hframe k (hks hk))

theorem Framed.popAddr_eq (h : Framed s t ret top) : popAddr t = .ok ret := by
  refine popAddr_iff.mpr ⟨_, _, _, ?_, ?_, ?_, (addrOf_parts ret).symm⟩
  · rw [h.stackAddr]; exact h.low
  · rw [h.stackAddr]; exact h.high
  · rw [h.stackAddr]; exact h.upper

theorem Framed.exec_ret (h : Framed s t ret top) :
    exec .ret t = .next { t with pc := ret, sp := s.sp, intInhibit := false, pmcSettle := false } := by
  rw [CallReturn.exec_ret (h.stackOk_pop (by simp)) h.popAddr_eq, h.sp_add]

theorem Framed.exec_return {i : Instr} (h : Framed s t ret top) (hi : i = .reti ∨ i = .retb) :
    exec i t = .next { t with pc := ret, sp := s.sp, psw := top, intInhibit := true, pmcSettle := false } := by
  have htop : memRead (Machine.stackAddr t 3) t.mem = some top := by rw [h.stackAddr]; exact h.top
  rw [exec_returnFromException hi (h.stackOk_pop (by simp)) h.popAddr_eq htop, h.sp_add]

end

/-- A frame stays as long as SP and its four bytes do. -/
theorem Framed.after {s t u : State} {ret : Addr} {top : Byte} (h : Framed s t ret top) (hsp : u.sp = t.sp)
    (hproduct : u.product = t.product) (hmem : ∀ a ∈ frame4 s, memRead a u.mem = memRead a t.mem) :
    Framed s u ret top := by
  obtain ⟨htsp, htproduct, hok, hlow, hhigh, hupper, htop⟩ := h
  exact ⟨hsp.trans htsp, hproduct.trans htproduct, hok, (hmem _ (by simp [frame4])).trans hlow,
    (hmem _ (by simp [frame4])).trans hhigh, (hmem _ (by simp [frame4])).trans hupper,
    (hmem _ (by simp [frame4])).trans htop⟩

/-- A frame depends on SP and the product of the state before it alone. -/
theorem Framed.before {s s' t : State} {ret : Addr} {top : Byte} (h : Framed s' t ret top) (hsp : s'.sp = s.sp)
    (hproduct : s'.product = s.product) : Framed s t ret top := by
  have haddr : ∀ k, Machine.stackAddr s k = Machine.stackAddr s' k := fun k => by
    rw [Machine.stackAddr, Machine.stackAddr, hsp]
  obtain ⟨htsp, htproduct, hok, hlow, hhigh, hupper, htop⟩ := h
  refine ⟨by rw [htsp, hsp], htproduct.trans hproduct, ?_, ?_, ?_, ?_, ?_⟩
  · simpa only [stackOk, haddr, hproduct] using hok
  · rw [haddr]; exact hlow
  · rw [haddr]; exact hhigh
  · rw [haddr]; exact hupper
  · rw [haddr]; exact htop

/-- Whatever a completed CALL has done, it ended with its frame pushed. -/
theorem framed_of_callTo {i : Instr} {target : Addr} {s t : State} (h : callTo i target s = .ok t) :
    Framed s t (nextPc i s) 0x00 ∧ t.psw = s.psw := by
  obtain ⟨-, u, hpush, rfl⟩ := callTo_iff.mp h
  obtain ⟨hok, rfl⟩ := push4_iff.mp hpush
  exact ⟨(framed_pushed hok).after rfl rfl fun _ _ => rfl, rfl⟩

theorem framed_of_call {i : Instr} {s t : State}
    (hi : (∃ rp, i = .callR rp) ∨ (∃ d, i = .callRel d) ∨ (∃ w, i = .callAbs16 w) ∨ (∃ a, i = .callAbs20 a) ∨
      (∃ k, i = .callt k)) (h : exec i s = .next t) : Framed s t (nextPc i s) 0x00 ∧ t.psw = s.psw := by
  obtain ⟨rp, rfl⟩ | ⟨d, rfl⟩ | ⟨w, rfl⟩ | ⟨a, rfl⟩ | ⟨k, rfl⟩ := hi
  · exact framed_of_callTo (outcome_eq_next.mp h)
  · obtain ⟨u, hcall, hbranch⟩ := bind_ok.mp (outcome_eq_next.mp h)
    obtain ⟨-, rfl⟩ := branchTo_iff.mp hbranch
    obtain ⟨hframed, hpsw⟩ := framed_of_callTo hcall
    exact ⟨hframed.after rfl rfl fun _ _ => rfl, hpsw⟩
  · exact framed_of_callTo (outcome_eq_next.mp h)
  · exact framed_of_callTo (outcome_eq_next.mp h)
  · obtain ⟨⟨w, u⟩, hread, hcall⟩ := bind_ok.mp (outcome_eq_next.mp h)
    have hr := read16_iff.mp hread
    obtain ⟨hframed, hpsw⟩ := framed_of_callTo hcall
    rw [nextPc_after_read hr] at hframed
    exact ⟨hframed.before (wordRead_sp_kept hr) (wordRead_product hr), hpsw.trans (wordRead_psw hr)⟩

/-- Whatever an exception entry has done, it ended with PSW and the return address stacked, and IE clear. -/
theorem framed_of_enterException {vector : Nat} {ret : Addr} {s t : State} (h : enterException vector ret s = .ok t) :
    Framed s t ret s.psw ∧ t.psw = setIE s.psw false := by
  obtain ⟨w, u, v, hr, hpush, rfl⟩ := enterException_iff.mp h
  obtain ⟨hok, rfl⟩ := push4_iff.mp hpush
  have hpsw := wordRead_psw hr
  have hframed := (framed_pushed (ret := ret) (top := u.psw) hok).before (wordRead_sp_kept hr) (wordRead_product hr)
  refine ⟨?_, congrArg (setIE · false) hpsw⟩
  rw [← hpsw]
  exact hframed.after rfl rfl fun _ _ => rfl

/-- Settles O43: the frame that the call or the entry has left is the one that the return takes. -/
theorem returnUndoesCall : Obligations.ReturnUndoesCall := by
  constructor
  · intro i s t hi h
    obtain ⟨hframed, hpsw⟩ := framed_of_call hi h
    exact ⟨hframed.exec_ret, hpsw⟩
  · intro s t h
    obtain ⟨u, hpush, hend⟩ := bind_ok.mp (outcome_eq_next.mp h)
    obtain rfl := Except.ok.inj hend
    obtain ⟨-, henter⟩ := pushing_iff.mp hpush
    obtain ⟨hframed, -⟩ := framed_of_enterException henter
    exact (hframed.after rfl rfl fun _ _ => rfl).exec_return (.inr rfl)

end Sys2Proof.Laws.CallReturn
end

section

/-! # Interrupts, standby, reset, and the register bytes (`60_exceptions.md`, `70_reset_and_hazards.md`, `10_state.md` R37)

When a request is accepted, what its acceptance does, what a step in HALT or STOP mode and a reset do. -/

namespace Sys2Proof.Laws.Exceptions
open Sys2Proof.Machine Sys2Proof.Laws.Completion Sys2Proof.Laws.PswBits Sys2Proof.Laws.CallReturn

set_option Elab.async false

/-! ### Requests -/

theorem isKind_of_source {p : Product} {q : Request} {c : Source} (hc : q.source p = some c) (k : RequestKind) :
    q.isKind p k = decide (c.kind = k) := by
  rw [Request.isKind, hc]

theorem isKind_of_none {p : Product} {q : Request} (hnone : q.source p = none) (k : RequestKind) :
    q.isKind p k = false := by
  rw [Request.isKind, hnone]

theorem isKind_iff {p : Product} {q : Request} {k : RequestKind} :
    q.isKind p k = true ↔ ∃ c, q.source p = some c ∧ c.kind = k := by
  cases hsource : q.source p with
  | none => simp [isKind_of_none hsource]
  | some c => simp [isKind_of_source hsource]

theorem vector_of_source {p : Product} {q : Request} {c : Source} (hc : q.source p = some c) : q.vector p = c.vector := by
  rw [Request.vector, hc]

theorem acceptable_iff {s : State} {q : Request} :
    acceptable s q = true ↔ (q.delay = 0 ∧ s.intInhibit = false ∧ q.latency = 0) ∧
      (q.isKind s.product .nonmaskable = true ∨
        (q.isKind s.product .maskable = true ∧ pswIE s.psw = true ∧ priorityOk s q = true)) := by
  simp only [acceptable, permitted, Bool.and_eq_true, Bool.or_eq_true, decide_eq_true_eq, Bool.not_eq_true']
  tauto

/-- With ISP1 the comparison is of two bits (log 10). -/
theorem priorityOk_iff {s : State} {q : Request} (h : s.product.hasIsp1 = true) :
    priorityOk s q = true ↔ q.level ≤ pswISP s.psw := by
  rw [priorityOk, if_pos h, decide_eq_true_eq, BitVec.le_def]

/-- Without ISP1 it is of one bit (log 33). -/
theorem priorityOk_iff_bit {s : State} {q : Request} (h : s.product.hasIsp1 = false) :
    priorityOk s q = true ↔ (q.level.getLsbD 0 = true → s.psw.getLsbD 1 = true) := by
  rw [priorityOk, if_neg (by simp [h]), (pswISP_bits s.psw).2]
  cases q.level.getLsbD 0 <;> cases s.psw.getLsbD 1 <;> decide

/-- Settles O55: the conjuncts of the acceptance condition one by one. -/
theorem acceptanceCondition : Obligations.AcceptanceCondition := by
  intro s q
  simp only [← Bool.not_eq_true, acceptable_iff]
  refine ⟨fun hinhibit h => ?_, fun htime h => ?_, fun hnone h => ?_, fun c hc => ⟨fun hmask hie h => ?_, ?_⟩⟩
  · obtain ⟨⟨-, hoff, -⟩, -⟩ := h
    exact hoff hinhibit
  · omega
  · simp [isKind_of_none hnone] at h
  · simp [isKind_of_source hc, hmask, hie] at h
  · intro hinhibit hdelay hlatency
    simp only [isKind_of_source hc]
    refine ⟨fun hnonmask => ?_, fun hmask hie h1 => ?_, fun hmask hie h1 => ?_⟩
    · simp [hnonmask, hinhibit, hdelay, hlatency]
    · simp [hmask, hie, hinhibit, hdelay, hlatency, priorityOk_iff h1]
    · have h1' : s.product.hasIsp1 = false := by simpa using h1
      simp [hmask, hie, hinhibit, hdelay, hlatency, priorityOk_iff_bit h1']

/-! ### Acceptance (R367, R368, R371) -/

/-- The value that ISP takes. -/
def ispAfter (s : State) (q : Request) : BitVec 2 := s.product.ispOnAccept[q.level.toNat]'q.level.isLt

theorem pswAccept_nonmaskable {s : State} {q : Request} {c : Source} (hc : q.source s.product = some c)
    (hkind : c.kind = .nonmaskable) (p : Byte) : pswAccept s q p = p := by
  rw [pswAccept, isKind_of_source hc, hkind, if_neg (by decide)]

theorem pswAccept_maskable {s : State} {q : Request} {c : Source} (hc : q.source s.product = some c)
    (hkind : c.kind = .maskable) (p : Byte) : pswAccept s q p = setISP s.product.hasIsp1 p (ispAfter s q) := by
  rw [pswAccept, isKind_of_source hc, hkind, if_pos (by decide)]
  rfl

theorem setISP_and (p : Byte) (n : BitVec 2) : setISP true p n &&& 0xF9 = p &&& 0xF9 := by
  rw [setISP, if_pos rfl, setBit8_and (by decide), setBit8_and (by decide)]

theorem setISP_and_bit (p : Byte) (n : BitVec 2) : setISP false p n &&& 0xFD = p &&& 0xFD := by
  rw [setISP, if_neg Bool.false_ne_true, setBit8_and (by decide)]

theorem setIE_false (p : Byte) : setIE p false = p &&& 0x7F := rfl

/-- What the acceptance of a request leaves where the vector can be read and the frame is in the stack area. -/
theorem acceptRequest_eq {s t : State} {q : Request} {c : Source} {rest : List Request} {w : Word}
    (hc : q.source s.product = some c) (hr : WordRead s c.vector w t)
    (hin : ∀ a ∈ frame4 s, inStack s.product a = true) :
    acceptRequest q rest s =
      .ok { Obligations.pushed t s.pc s.psw with
        psw := pswAccept s q (setIE s.psw false), pc := abs16 w, mode := .run, intInhibit := false
        pending := rest.map (Request.tick s), resets := tickResets s.resets, hostOut := .accept q :: t.hostOut } := by
  have henter := enterException_eq (ret := s.pc) hr hin
  rw [← vector_of_source hc] at henter
  exact acceptRequest_iff.mpr ⟨_, henter, rfl⟩

/-- Settles O56: the shared entry, and PSW by the kind of the request. -/
theorem interruptEntry : Obligations.InterruptEntry := by
  intro s t q c rest w hreset hpick hc hr hin
  refine ⟨pswAccept s q (setIE s.psw false), ?_, fun hkind => ?_, fun hkind h1 => ?_, fun hkind h1 => ?_⟩
  · rw [step, stepWith_accept hreset hpick, acceptRequest_eq hc hr hin]
    rfl
  · rw [pswAccept_nonmaskable hc hkind, setIE_false]
  · rw [pswAccept_maskable hc hkind, h1, setISP_and, pswISP_setISP, setIE_false, BitVec.and_assoc]
    exact ⟨rfl, rfl⟩
  · rw [pswAccept_maskable hc hkind, h1, setISP_and_bit, getLsbD_setISP, setIE_false, BitVec.and_assoc]
    exact ⟨rfl, rfl⟩

theorem pswIE_setISP (b : Bool) (p : Byte) (n : BitVec 2) : pswIE (setISP b p n) = pswIE p := by
  cases b
  · rw [setISP, if_neg Bool.false_ne_true, pswIE, setBitWritesOneBit _ _ _ _ (by decide) (by decide)]
    rfl
  · rw [setISP, if_pos rfl, pswIE, setBitWritesOneBit _ _ _ _ (by decide) (by decide), if_neg (by decide),
      setBitWritesOneBit _ _ _ _ (by decide) (by decide)]
    rfl

/-- No acceptance sets IE. -/
theorem pswIE_pswAccept (s : State) (q : Request) (p : Byte) : pswIE (pswAccept s q p) = pswIE p := by
  rw [pswAccept]
  split
  · exact pswIE_setISP ..
  · rfl

theorem pswIE_setIE_false (p : Byte) : pswIE (setIE p false) = false := by
  rw [setIE, pswIE, setBitWritesOneBit _ _ _ _ (by decide) (by decide), if_pos rfl]

/-- Settles O57: the entry has left its frame, and every state that still has it returns. -/
theorem retiResumesInterrupted : Obligations.RetiResumesInterrupted := by
  intro s t u q rest hreset hpick hstep hsp hproduct hmem
  rw [step, stepWith_accept hreset hpick, outcome_eq_next] at hstep
  obtain ⟨v, henter, rfl⟩ := acceptRequest_iff.mp hstep
  obtain ⟨hframed, hpsw⟩ := framed_of_enterException henter
  refine ⟨(hframed.after hsp hproduct hmem).exec_return (.inl rfl), rfl, ?_⟩
  change pswIE (pswAccept s q v.psw) = false
  rw [pswIE_pswAccept, hpsw, pswIE_setIE_false]

/-! ### HALT and STOP mode (R383, R384) -/

theorem wakes_iff {s : State} :
    wakes s = true ↔ s.product.wakeOnMaskedIE0 = true ∧ pswIE s.psw = false ∧
      (∃ q ∈ s.pending, (∃ c, q.source s.product = some c ∧ c.kind = .maskable) ∧ q.delay = 0) := by
  simp only [wakes, Bool.and_eq_true, Bool.not_eq_true', List.any_eq_true, decide_eq_true_eq, isKind_iff, and_assoc]

/-- Settles O58: a step in standby is the tick, and Run mode where the product wakes. -/
theorem standbySteps : Obligations.StandbySteps := by
  intro s hreset hmode hpick
  rw [step, stepWith_standby hreset hpick hmode, standby]
  by_cases hw : wakes s = true
  · rw [if_pos hw, if_pos (wakes_iff.mp hw)]
    rfl
  · rw [if_neg hw, if_neg fun h => hw (wakes_iff.mpr h)]
    rfl

/-! ### Reset -/

/-- Settles O8: the fields of the reset state; its memory is empty. -/
theorem resetState : Obligations.ResetState := by
  refine ⟨⟨memWf_reset, ?_, rfl, rfl, rfl, rfl, fun _ => rfl, ?_⟩, rfl, rfl, rfl, rfl, rfl, rfl, rfl, rfl, rfl, rfl, rfl,
    rfl⟩
  · intro c hc
    cases hc
  · intro h
    cases h

/-- The loss of RAM leaves the bytes of the other regions. -/
theorem memRead_dropRam {p : Product} {a : Nat} (ha : region p a ≠ .ram) (m : Memory) :
    memRead a (dropRam p m) = memRead a m := by
  induction m with
  | nil => rfl
  | cons c m ih =>
    obtain ⟨b, v⟩ := c
    by_cases hb : region p b = .ram
    · have hne : a ≠ b := fun hab => ha (hab ▸ hb)
      rw [dropRam, List.filter_cons_of_neg (by simp [hb]), memRead, if_neg hne]
      exact ih
    · rw [dropRam, List.filter_cons_of_pos (by simp [hb]), memRead, memRead]
      rw [dropRam] at ih
      rw [ih]

/-- On a product within the manual's limits the addresses up to `FLASH_TOP` are flash. -/
theorem region_of_le_flashTop {p : Product} {a : Nat} (hok : p.ok = true) (ha : a ≤ p.flashTop) : region p a = .flash := by
  simp only [Product.ok, Bool.and_eq_true, decide_eq_true_eq] at hok
  rw [region, if_neg (by omega), if_neg (by omega), if_neg (by omega), if_neg (by omega), if_neg (by omega),
    if_neg (by omega), if_pos ha]

/-- The RESET vector's two bytes lie in flash. -/
theorem resetVector_le {p : Product} (hok : p.ok = true) : p.resetVectorAddr + 1 ≤ p.flashTop := by
  simp only [Product.ok, Bool.and_eq_true, decide_eq_true_eq] at hok
  omega

/-- A word of flash is read byte by byte. -/
theorem wordRead_flash {s : State} {a : Nat} {l h : Byte} (hok : s.product.ok = true) (ha : a + 1 ≤ s.product.flashTop)
    (hl : memRead a s.mem = some l) (hh : memRead (a + 1) s.mem = some h) : WordRead s a (word l h) s := by
  have hlow : region s.product a = .flash := region_of_le_flashTop hok (by omega)
  have hhigh : region s.product (a + 1) = .flash := region_of_le_flashTop hok ha
  refine .bytes _ _ _ _ (by simp [devWord, hlow]) (.stored ?_ (by simp [hlow])) (.stored ?_ (by simp [hhigh]))
  · simp only [State.peek, hlow, hl]
  · simp only [State.peek, hhigh, hh]

/-- Settles O59: the RESET vector's word is read in the state after reset, whose flash is that of before. -/
theorem resetEvent : Obligations.ResetEvent := by
  intro s l h hreset hok hl hh
  have hle := resetVector_le hok
  have hkept : ∀ a, a ≤ s.product.flashTop → memRead a (dropRam s.product s.mem) = memRead a s.mem := fun a ha =>
    memRead_dropRam (by simp [region_of_le_flashTop hok ha]) s.mem
  rw [step, stepWith_reset hreset, outcome_eq_next]
  refine bind_ok.mpr ⟨(word l h, _), read16_iff.mpr (wordRead_flash hok hle ?_ ?_), rfl⟩
  · exact (hkept _ (by omega)).trans hl
  · exact (hkept _ hle).trans hh

/-! ### The register bytes -/

theorem regAddr_eq (s : State) (r : Reg8) : 0xFFEF8 - 8 * (pswRBS s.psw).toNat + regNum r = regAddr s r := by
  have hbank := (pswRBS s.psw).isLt
  rw [regAddr, regIndex, State.bank]
  omega

theorem region_regAddr (s : State) (r : Reg8) : region s.product (regAddr s r) = .regs := by
  have hlt := regIndex_lt s.bank r
  rw [region_regs, regAddr]
  omega

theorem byteWritten_regAddr {s t : State} {r : Reg8} {v : Byte} (h : ByteWritten s (regAddr s r) v t) :
    t = s.setR8 s.bank r v := by
  have hregion := region_regAddr s r
  have hcpu : ∀ a, region s.product a = .cpu → regAddr s r ≠ a := by
    rintro a ha rfl
    rw [hregion] at ha
    cases ha
  cases h with
  | ram here => rw [hregion] at here; cases here
  | ext here => rw [hregion] at here; cases here
  | reg =>
    rw [State.setR8, regAddr, Nat.add_sub_cancel_left]
  | spl here => exact absurd here (hcpu _ (region_cpu.mpr (by decide)))
  | sph here => exact absurd here (hcpu _ (region_cpu.mpr (by decide)))
  | psw here => exact absurd here (hcpu _ (region_cpu.mpr (by decide)))
  | cs here => exact absurd here (hcpu _ (region_cpu.mpr (by decide)))
  | es here => exact absurd here (hcpu _ (region_cpu.mpr (by decide)))
  | pmc here => exact absurd here (hcpu _ (region_cpu.mpr (by decide)))
  | device _ _ dev => rw [hregion] at dev; cases dev

/-- Settles O60: the address is that of the register, and SEL writes RBS alone. -/
theorem registersAreMemory : Obligations.RegistersAreMemory := by
  refine ⟨fun s r => ?_, fun s t r v h => ?_, fun s t n h => ?_⟩
  · rw [regAddr_eq]
    exact .stored (peek_regAddr s r) (by simp [region_regAddr])
  · rw [regAddr_eq] at h
    obtain rfl := byteWritten_regAddr h
    exact ⟨rfl, r8_setR8_same .., fun r' hr' => r8_setR8_other _ _ _ hr'⟩
  · obtain ⟨-, rfl⟩ := retire_iff.mp (outcome_eq_next.mp h)
    exact ⟨rfl, pswRBS_setRBS ..⟩

end Sys2Proof.Laws.Exceptions
end

section

/-! # What one operation changes (`10_state.md` sections 3 to 8, `20_memory.md` R73, R74)

`Confined fp m s u`: from `s` to `u` no byte outside the addresses `fp`, no bit of PSW outside the mask `m`, no byte of
flash and nothing that belongs to the host or to the end of an instruction has changed, and the invariant has been kept. One
lemma for each operation that the meanings of the instructions are made of. -/

namespace Sys2Proof.Laws.Frame
open Sys2Proof.Machine Sys2Proof.Laws.Completion Sys2Proof.Laws.PswBits Sys2Proof.Laws.CallReturn

set_option Elab.async false

/-- From `s` to `u` nothing has changed but the bytes at `fp`, of PSW the bits of `m`, and what the host and the CPU
exchange. -/
structure Confined (fp : List Nat) (m : Byte) (s u : State) : Prop where
  product : u.product = s.product
  pending : u.pending = s.pending
  resets : u.resets = s.resets
  mode : u.mode = s.mode
  draws : u.draws = s.draws
  /-- PMC is written once after reset (`10_state.md` R44). -/
  pmcOnce : s.pmcWritten = true → u.pmc = s.pmc ∧ u.pmcWritten = true
  psw : Within m s.psw u.psw
  flash : ∀ a, region s.product a = .flash → memRead a u.mem = memRead a s.mem
  mem : ∀ a, a ∉ fp → memRead a u.mem = memRead a s.mem
  regs : ∀ k, 0xFFEE0 + k ∉ fp → u.regByte k = s.regByte k
  /-- A write of SPH clears bit 0 of SP, which is in SPL; the invariant says that it is 0. -/
  cpu : s.Inv → ∀ a, region s.product a = .cpu → a ∉ fp → cpuRead a u = cpuRead a s
  inv : s.Inv → u.Inv

theorem Confined.refl (fp : List Nat) (m : Byte) (s : State) : Confined fp m s s :=
  ⟨rfl, rfl, rfl, rfl, rfl, fun h => ⟨rfl, h⟩, .refl m _, fun _ _ => rfl, fun _ _ => rfl, fun _ _ => rfl,
    fun _ _ _ _ => rfl, id⟩

theorem Confined.trans {fp : List Nat} {m : Byte} {s u v : State} (h : Confined fp m s u) (k : Confined fp m u v) :
    Confined fp m s v where
  product := k.product.trans h.product
  pending := k.pending.trans h.pending
  resets := k.resets.trans h.resets
  mode := k.mode.trans h.mode
  draws := k.draws.trans h.draws
  pmcOnce hw := by
    obtain ⟨hpmc, hwritten⟩ := h.pmcOnce hw
    obtain ⟨kpmc, kwritten⟩ := k.pmcOnce hwritten
    exact ⟨kpmc.trans hpmc, kwritten⟩
  psw := Eq.trans k.psw h.psw
  flash a ha := (k.flash a (by rwa [h.product])).trans (h.flash a ha)
  mem a ha := (k.mem a ha).trans (h.mem a ha)
  regs j hj := (k.regs j hj).trans (h.regs j hj)
  cpu hinv a ha hfp := (k.cpu (h.inv hinv) a (by rwa [h.product]) hfp).trans (h.cpu hinv a ha hfp)
  inv hinv := k.inv (h.inv hinv)

section
variable {fp : List Nat} {m : Byte}

/-! ### Updates of one field -/

/-- What the host and the CPU exchange is in no byte. -/
theorem confined_host (s : State) (ins : List DevAnswer) (outs : List HostMsg) :
    Confined fp m s { s with devIn := ins, hostOut := outs } :=
  ⟨rfl, rfl, rfl, rfl, rfl, fun h => ⟨rfl, h⟩, .refl m _, fun _ _ => rfl, fun _ _ => rfl, fun _ _ => rfl,
    fun _ _ _ _ => rfl, fun h => { h with }⟩

/-- A store to RAM or to external memory. -/
theorem confined_mem {s : State} {a : Nat} {v : Byte} (hfp : a ∈ fp)
    (hregion : region s.product a = .ram ∨ region s.product a = .ext) :
    Confined fp m s { s with mem := memWrite a v s.mem } := by
  have hbound : a < 0xFFEE0 := by
    obtain h | h := hregion
    · have := region_ram.mp h
      omega
    · have := region_ext_bounds h
      omega
  have hstored : isStorage (region s.product a) = true := by
    obtain h | h := hregion
    · rw [h]; rfl
    · rw [h]; rfl
  refine ⟨rfl, rfl, rfl, rfl, rfl, fun h => ⟨rfl, h⟩, .refl m _, fun b hb => ?_, fun b hb => ?_, fun _ _ => rfl,
    fun _ _ _ _ => rfl,
    fun h => { h with memCanonical := memWf_write v h.memCanonical hbound, memStored := fun c hc => ?_ }⟩
  · refine memRead_memWrite_other v s.mem ?_
    rintro rfl
    rw [hb] at hregion
    simp at hregion
  · exact memRead_memWrite_other v s.mem fun hba => hb (hba ▸ hfp)
  · obtain rfl | hc := mem_memWrite hc
    · exact hstored
    · exact h.memStored c hc

theorem confined_setRegByte {s : State} {k : Nat} {v : Byte} (hfp : 0xFFEE0 + k ∈ fp) :
    Confined fp m s (s.setRegByte k v) :=
  ⟨rfl, rfl, rfl, rfl, rfl, fun h => ⟨rfl, h⟩, .refl m _, fun _ _ => rfl, fun _ _ => rfl,
    fun _ hj => regByte_setRegByte_other s v fun hjk => hj (hjk ▸ hfp), fun _ _ _ _ => rfl, fun h => { h with }⟩

theorem confined_setR8 {s : State} {b : BitVec 2} {r : Reg8} {v : Byte} (hfp : 0xFFEE0 + regIndex b r ∈ fp) :
    Confined fp m s (s.setR8 b r v) := confined_setRegByte hfp

theorem confined_setR16 {s : State} {b : BitVec 2} {rp : Reg16} {v : Word}
    (hlo : 0xFFEE0 + regIndex b (pairLo rp) ∈ fp) (hhi : 0xFFEE0 + regIndex b (pairHi rp) ∈ fp) :
    Confined fp m s (s.setR16 b rp v) := (confined_setR8 hlo).trans (confined_setR8 hhi)

/-- The six addresses of CPU registers, one by one. -/
theorem cpuRead_eq_of {s u : State} {p : Product} {a : Nat} (ha : region p a = .cpu)
    (hspl : a = 0xFFFF8 → lo8 u.sp = lo8 s.sp) (hsph : a = 0xFFFF9 → hi8 u.sp = hi8 s.sp)
    (hpsw : a = 0xFFFFA → u.psw = s.psw) (hcs : a = 0xFFFFC → u.cs = s.cs) (hes : a = 0xFFFFD → u.es = s.es)
    (hpmc : a = 0xFFFFE → u.pmc = s.pmc) : cpuRead a u = cpuRead a s := by
  obtain rfl | rfl | rfl | rfl | rfl | rfl := region_cpu.mp ha
  · exact hspl rfl
  · exact hsph rfl
  · exact hpsw rfl
  · exact hcs rfl
  · exact hes rfl
  · exact hpmc rfl

/-- A write of SP; a byte of it that is not in `fp` stays. -/
theorem confined_sp {s : State} {w : Word} (heven : s.Inv → w.getLsbD 0 = false)
    (hlo : s.Inv → 0xFFFF8 ∉ fp → lo8 w = lo8 s.sp) (hhi : 0xFFFF9 ∉ fp → hi8 w = hi8 s.sp) :
    Confined fp m s { s with sp := w } :=
  ⟨rfl, rfl, rfl, rfl, rfl, fun h => ⟨rfl, h⟩, .refl m _, fun _ _ => rfl, fun _ _ => rfl, fun _ _ => rfl,
    fun hinv _ ha hfp => cpuRead_eq_of ha (fun h => hlo hinv (h ▸ hfp)) (fun h => hhi (h ▸ hfp)) (fun _ => rfl)
      (fun _ => rfl) (fun _ => rfl) (fun _ => rfl),
    fun h => { h with spEven := heven h }⟩

/-- A write of the whole SP. -/
theorem confined_sp_whole {s : State} {w : Word} (heven : s.Inv → w.getLsbD 0 = false) (hfp : spAt ⊆ fp) :
    Confined fp m s { s with sp := w } :=
  confined_sp heven (fun _ h => absurd (hfp (by simp [spAt])) h) fun h => absurd (hfp (by simp [spAt])) h

theorem confined_psw {s : State} {p : Byte} (hfp : 0xFFFFA ∈ fp) (hp : Within m s.psw p) :
    Confined fp m s { s with psw := p } :=
  ⟨rfl, rfl, rfl, rfl, rfl, fun h => ⟨rfl, h⟩, hp, fun _ _ => rfl, fun _ _ => rfl, fun _ _ => rfl,
    fun _ _ ha hnot => cpuRead_eq_of ha (fun _ => rfl) (fun _ => rfl) (fun h => absurd (h ▸ hfp) hnot) (fun _ => rfl)
      (fun _ => rfl) (fun _ => rfl),
    fun h => { h with }⟩

/-- Bits 7 to 4 of what ES and CS store are 0 (R41, R42). -/
theorem high_and_0F (v : Byte) : (v &&& 0x0F).extractLsb' 4 4 = 0 := by
  ext j hj
  have hmask : ∀ j < 4, (0x0F : Byte).getLsbD (4 + j) = false := by decide
  rw [BitVec.getElem_extractLsb', BitVec.getLsbD_and, hmask j hj, Bool.and_false]
  simp

theorem confined_es {s : State} {v : Byte} (hfp : 0xFFFFD ∈ fp) : Confined fp m s { s with es := v &&& 0x0F } :=
  ⟨rfl, rfl, rfl, rfl, rfl, fun h => ⟨rfl, h⟩, .refl m _, fun _ _ => rfl, fun _ _ => rfl, fun _ _ => rfl,
    fun _ _ ha hnot => cpuRead_eq_of ha (fun _ => rfl) (fun _ => rfl) (fun _ => rfl) (fun _ => rfl)
      (fun h => absurd (h ▸ hfp) hnot) (fun _ => rfl),
    fun h => { h with esHigh := high_and_0F v }⟩

theorem confined_cs {s : State} {v : Byte} (hfp : 0xFFFFC ∈ fp) : Confined fp m s { s with cs := v &&& 0x0F } :=
  ⟨rfl, rfl, rfl, rfl, rfl, fun h => ⟨rfl, h⟩, .refl m _, fun _ _ => rfl, fun _ _ => rfl, fun _ _ => rfl,
    fun _ _ ha hnot => cpuRead_eq_of ha (fun _ => rfl) (fun _ => rfl) (fun _ => rfl) (fun h => absurd (h ▸ hfp) hnot)
      (fun _ => rfl) (fun _ => rfl),
    fun h => { h with csHigh := high_and_0F v }⟩

/-- Bits 7 to 1 of what PMC stores are 0 (R44). -/
theorem high_and_01 (v : Byte) : (v &&& 0x01).extractLsb' 1 7 = 0 := by
  ext j hj
  have hmask : ∀ j < 7, (0x01 : Byte).getLsbD (1 + j) = false := by decide
  rw [BitVec.getElem_extractLsb', BitVec.getLsbD_and, hmask j hj, Bool.and_false]
  simp

theorem confined_pmc {s : State} {v : Byte} (hfp : 0xFFFFE ∈ fp) (first : s.pmcWritten = false) :
    Confined fp m s { s with pmc := v &&& 0x01, pmcWritten := true } :=
  ⟨rfl, rfl, rfl, rfl, rfl, fun h => absurd h (by simp [first]), .refl m _, fun _ _ => rfl, fun _ _ => rfl,
    fun _ _ => rfl,
    fun _ _ ha hnot => cpuRead_eq_of ha (fun _ => rfl) (fun _ => rfl) (fun _ => rfl) (fun _ => rfl) (fun _ => rfl)
      (fun h => absurd (h ▸ hfp) hnot),
    fun h => { h with pmcHigh := high_and_01 v, pmcReset := fun hw => absurd hw (by simp), settleWritten := fun _ => rfl }⟩

/-! ### Writes of PSW after other changes -/

/-- The new PSW is given as a change of the one before the instruction. -/
theorem Confined.setPsw {s u : State} {p : Byte} (h : Confined fp m s u) (hfp : 0xFFFFA ∈ fp) (hp : Within m s.psw p) :
    Confined fp m s (u.setPsw p) :=
  h.trans (confined_psw hfp (Eq.trans hp h.psw.symm))

/-- The new PSW is given as a change of the one that is there. -/
theorem Confined.setPsw_of_kept {s u : State} {p : Byte} (h : Confined fp m s u) (hfp : 0xFFFFA ∈ fp)
    (hp : Within m u.psw p) : Confined fp m s (u.setPsw p) :=
  h.trans (confined_psw hfp hp)

theorem within_left {m n p q : Byte} (h : Within m p q) : Within (m ||| n) p q := h.trans (.refl n q)

theorem within_right {m n p q : Byte} (h : Within n p q) : Within (m ||| n) p q := Within.trans (.refl m p) h

theorem within_storeMask {s : State} {o : MemOp} (h : byteAt s o = pswAt) (p q : Byte) : Within (storeMask s o) p q := by
  rw [storeMask, if_pos h]
  exact within_all p q

theorem within_bitMask {s : State} {l : BitLoc} {n : BitVec 3} {b : Bool} (h : bitAt s l = pswAt) (p : Byte) :
    Within (bitMask s l n) p (setBit8 p n.toNat b) := by
  rw [bitMask, if_pos h]
  exact within_setBit8 p n.isLt b

theorem within_flags8 (p : Byte) (r : Arith8) : Within 0x51 p (flags8 p r) := within_zAcCy ..

theorem within_incDec (p : Byte) (z ac : Bool) : Within 0x50 p (setAC (setZ p z) ac) :=
  (within_setZ p z).trans (within_setAC _ ac)

theorem within_flagsMovs (p a x : Byte) : Within 0x41 p (flagsMovs p a x) := (within_setZ ..).trans (within_setCY ..)

/-! ### Accesses -/

theorem confined_byteRead {s u : State} {a : Nat} {v : Byte} (h : ByteRead s a v u) : Confined fp m s u := by
  rw [h.frame]
  exact confined_host s _ _

theorem confined_wordRead {s u : State} {a : Nat} {v : Word} (h : WordRead s a v u) : Confined fp m s u := by
  rw [h.frame]
  exact confined_host s _ _

/-- A write of SPL stores an even SP and leaves SPH (R33). -/
theorem splWrite (v : Byte) (w : Word) :
    (word v (hi8 w) &&& 0xFFFE).getLsbD 0 = false ∧ hi8 (word v (hi8 w) &&& 0xFFFE) = hi8 w := by
  constructor
  · simp
  · have hmask : hi8 0xFFFE = BitVec.allOnes 8 := by decide
    have hand : ∀ x y : Word, hi8 (x &&& y) = hi8 x &&& hi8 y := fun x y => by ext j hj; simp [hi8]
    rw [hand, hi8_word, hmask, BitVec.and_allOnes]

/-- A write of SPH leaves SPL where bit 0 of SP is 0. -/
theorem sphWrite (v : Byte) {w : Word} (heven : w.getLsbD 0 = false) : lo8 (word (lo8 w) v &&& 0xFFFE) = lo8 w := by
  have hand : ∀ x y : Word, lo8 (x &&& y) = lo8 x &&& lo8 y := fun x y => by ext j hj; simp [lo8]
  rw [hand, lo8_word]
  ext j hj
  by_cases hzero : j = 0
  · subst hzero
    rw [BitVec.getLsbD_eq_getElem (by decide)] at heven
    simp [lo8, heven]
  · have hmask : ∀ j < 8, j ≠ 0 → (lo8 0xFFFE).getLsbD j = true := by decide
    rw [BitVec.getElem_and, ← BitVec.getLsbD_eq_getElem (x := lo8 0xFFFE), hmask j hj hzero, Bool.and_true]

/-- A byte write to an address in `fp`; where it is PSW, within the mask. -/
theorem confined_byteWritten {s u : State} {a : Nat} {v : Byte} (h : ByteWritten s a v u) (hfp : a ∈ fp)
    (hpsw : a = 0xFFFFA → Within m s.psw v) : Confined fp m s u := by
  cases h with
  | ram here => exact confined_mem hfp (.inl here)
  | ext here => exact confined_mem hfp (.inr here)
  | reg here =>
    refine confined_setRegByte ?_
    have := region_regs.mp here
    rwa [Nat.add_sub_cancel' this.1]
  | spl here =>
    obtain ⟨heven, hhi⟩ := splWrite v s.sp
    exact confined_sp (fun _ => heven) (fun _ hnot => absurd (here ▸ hfp) hnot) fun _ => hhi
  | sph here =>
    exact confined_sp (fun _ => by simp) (fun hinv _ => sphWrite v hinv.spEven) fun hnot => absurd (here ▸ hfp) hnot
  | psw here => exact confined_psw (here ▸ hfp) (hpsw here)
  | cs here => exact confined_cs (here ▸ hfp)
  | es here => exact confined_es (here ▸ hfp)
  | pmc here first => exact confined_pmc (here ▸ hfp) first
  | device => exact confined_host s _ _

/-- FFFFBH takes no write (R43). -/
theorem not_byteWritten_reserved {s u : State} {v : Byte} (h : ByteWritten s 0xFFFFB v u) : False := by
  have hfails : ByteWriteFails s 0xFFFFB .reservedWrite := .reserved rfl
  have herror := write8_error (v := v).mpr hfails
  rw [write8_iff.mpr h] at herror
  cases herror

/-- A word write at an even address never writes PSW: with PSW the word has FFFFBH. -/
theorem confined_wordWritten {s u : State} {a : Nat} {v : Word} (h : WordWritten s a v u) (heven : a % 2 = 0)
    (hlo : a ∈ fp) (hhi : a + 1 ∈ fp) : Confined fp m s u := by
  cases h with
  | bytes s1 _ _ low high =>
    have hlow : a ≠ 0xFFFFA := by
      rintro rfl
      exact not_byteWritten_reserved high
    exact (confined_byteWritten low hlo fun h => absurd h hlow).trans (confined_byteWritten high hhi fun h => by omega)
  | device => exact confined_host s _ _

/-! ### Operands -/

theorem byteAt_of_ok {s : State} {o : MemOp} {a : Nat} (h : byteAddr s o = .ok a) : byteAt s o = [a] := by
  rw [byteAt, h]

theorem wordAt_of_ok {s : State} {o : MemOp} {a : Nat} (h : wordAddr s o = .ok a) : wordAt s o = [a, a + 1] := by
  rw [wordAt, h]

/-- A word operand is at an even address (`20_memory.md` R75). -/
theorem wordAddr_even {s : State} {o : MemOp} {a : Nat} (h : wordAddr s o = .ok a) : a % 2 = 0 := by
  obtain ⟨b, -, h⟩ := bind_ok.mp h
  split at h
  · obtain rfl := Except.ok.inj h
    omega
  · split at h
    · cases h
    · split at h
      · cases h
      · obtain rfl := Except.ok.inj h
        omega

theorem confined_loadByte {o : MemOp} {s u : State} {v : Byte} (h : loadByte o s = .ok (v, u)) : Confined fp m s u := by
  obtain ⟨a, -, hr⟩ := loadByte_iff.mp h
  exact confined_byteRead hr

theorem confined_loadWord {o : MemOp} {s u : State} {v : Word} (h : loadWord o s = .ok (v, u)) : Confined fp m s u := by
  obtain ⟨a, -, hr⟩ := loadWord_iff.mp h
  exact confined_wordRead hr

theorem confined_storeByte {next : Addr} {o : MemOp} {v : Byte} {s u : State} (h : storeByte next o v s = .ok u)
    (hfp : byteAt s o ⊆ fp) (hpsw : byteAt s o = pswAt → Within m s.psw v) : Confined fp m s u := by
  obtain ⟨a, ha, -, hw⟩ := storeByte_iff.mp h
  rw [byteAt_of_ok ha] at hfp hpsw
  exact confined_byteWritten hw (hfp (by simp)) fun hpswAt => hpsw (by rw [hpswAt, pswAt])

/-- A read at FFFFAH gives PSW. -/
theorem byteRead_pswAt {s u : State} {v : Byte} (h : ByteRead s 0xFFFFA v u) : v = s.psw := by
  cases h with
  | stored here => exact (Option.some.inj here).symm
  | device _ _ dev => exact absurd dev (by simp [region])

theorem confined_modifyByte {α : Type} {next : Addr} {o : MemOp} {f : Byte → Byte × α} {s u : State} {x : α}
    (h : modifyByte next o f s = .ok (x, u)) (hfp : byteAt s o ⊆ fp)
    (hpsw : byteAt s o = pswAt → Within m s.psw (f s.psw).1) : Confined fp m s u := by
  obtain ⟨a, v, s1, ha, hr, -, hw, -⟩ := modifyByte_iff.mp h
  rw [byteAt_of_ok ha] at hfp hpsw
  refine (confined_byteRead hr).trans (confined_byteWritten hw (hfp (by simp)) ?_)
  rintro rfl
  rw [byteRead_psw hr, byteRead_pswAt hr]
  exact hpsw rfl

theorem confined_storeWord {next : Addr} {o : MemOp} {v : Word} {s u : State} (h : storeWord next o v s = .ok u)
    (hfp : wordAt s o ⊆ fp) : Confined fp m s u := by
  obtain ⟨a, ha, -, hw⟩ := storeWord_iff.mp h
  rw [wordAt_of_ok ha] at hfp
  exact confined_wordWritten hw (wordAddr_even ha) (hfp (by simp)) (hfp (by simp))

theorem confined_modifyWord {next : Addr} {o : MemOp} {f : Word → Word} {s u : State}
    (h : modifyWord next o f s = .ok u) (hfp : wordAt s o ⊆ fp) : Confined fp m s u := by
  obtain ⟨a, v, s1, ha, hr, -, hw⟩ := modifyWord_iff.mp h
  rw [wordAt_of_ok ha] at hfp
  exact (confined_wordRead hr).trans (confined_wordWritten hw (wordAddr_even ha) (hfp (by simp)) (hfp (by simp)))

theorem confined_loadBitByte {l : BitLoc} {s u : State} {v : Byte} (h : loadBitByte l s = .ok (v, u)) :
    Confined fp m s u := by
  obtain ⟨-, -, rfl⟩ | ⟨_, _, -, -, hr⟩ := loadBitByte_iff.mp h
  · exact .refl ..
  · exact confined_byteRead hr

theorem confined_modifyBit {next : Addr} {l : BitLoc} {n : BitVec 3} {b : Bool} {s u : State}
    (h : modifyBit next l n b s = .ok u) (hfp : bitAt s l ⊆ fp)
    (hpsw : bitAt s l = pswAt → Within m s.psw (setBit8 s.psw n.toNat b)) : Confined fp m s u := by
  cases l with
  | a =>
    obtain rfl := Except.ok.inj h
    exact confined_setR8 (hfp (by simp [bitAt, regAddr]))
  | mem o =>
    obtain ⟨⟨⟨⟩, v⟩, hmodify, hv⟩ := bind_ok.mp h
    obtain rfl := Except.ok.inj hv
    exact confined_modifyByte hmodify hfp hpsw

/-! ### The stack -/

/-- Adding or subtracting an even number keeps SP even. -/
theorem even_add {w k : Word} (hw : w.getLsbD 0 = false) (hk : k.getLsbD 0 = false) : (w + k).getLsbD 0 = false := by
  simp only [BitVec.getLsbD, Nat.testBit_zero, decide_eq_false_iff_not] at hw hk ⊢
  rw [BitVec.toNat_add]
  omega

theorem even_sub {w k : Word} (hw : w.getLsbD 0 = false) (hk : k.getLsbD 0 = false) : (w - k).getLsbD 0 = false := by
  simp only [BitVec.getLsbD, Nat.testBit_zero, decide_eq_false_iff_not] at hw hk ⊢
  rw [BitVec.toNat_sub]
  have := k.isLt
  omega

/-- A pushed byte lies in the stack area, which is RAM. -/
theorem confined_push {s : State} {k : BitVec 16} {v : Byte} {mem : Memory} (hin : inStack s.product (stackAddr s k) = true)
    (hfp : stackAddr s k ∈ fp) (h : Confined fp m s { s with mem := mem }) :
    Confined fp m s { s with mem := memWrite (stackAddr s k) v mem } :=
  h.trans (confined_mem (s := { s with mem := mem }) hfp (.inl (region_of_inStack hin)))

theorem confined_push2 {lo hi : Byte} {s u : State} (h : push2 lo hi s = .ok u) (hsp : spAt ⊆ fp) (hfp : frame2 s ⊆ fp) :
    Confined fp m s u := by
  obtain ⟨hok, rfl⟩ := push2_iff.mp h
  have hin := stackOk_iff.mp hok
  have hmem := confined_push (m := m) (v := lo) (hin (-2) (by simp)) (hfp (by simp [frame2]))
    (confined_push (v := hi) (hin (-1) (by simp)) (hfp (by simp [frame2])) (.refl ..))
  exact hmem.trans (confined_sp_whole (fun hinv => even_sub hinv.spEven (by decide)) hsp)

theorem confined_pushed {ret : Addr} {top : Byte} {s : State} (hok : stackOk s [-1, -2, -3, -4] = true)
    (hsp : spAt ⊆ fp) (hfp : frame4 s ⊆ fp) : Confined fp m s (Obligations.pushed s ret top) := by
  have hin := stackOk_iff.mp hok
  have hmem := confined_push (m := m) (v := addrL ret) (hin (-4) (by simp)) (hfp (by simp [frame4]))
    (confined_push (v := addrH ret) (hin (-3) (by simp)) (hfp (by simp [frame4]))
      (confined_push (v := addrS ret) (hin (-2) (by simp)) (hfp (by simp [frame4]))
        (confined_push (v := top) (hin (-1) (by simp)) (hfp (by simp [frame4])) (.refl ..))))
  exact hmem.trans (confined_sp_whole (fun hinv => even_sub hinv.spEven (by decide)) hsp)

end

end Sys2Proof.Laws.Frame
end

section

/-! # What an instruction that completes changes

`Completes i s t`: `exec` answers `t` by a change of `s` within the footprint and the mask of `i`, then the drawn bit or
the new mode if `i` has one, and the end of the instruction. Here are the ends and the shared shapes. -/

namespace Sys2Proof.Laws.Effects
open Sys2Proof.Machine Sys2Proof.Laws.Completion Sys2Proof.Laws.PswBits Sys2Proof.Laws.CallReturn Sys2Proof.Laws.Frame

set_option Elab.async false

/-- The mode after an instruction that began in mode `m`. -/
def modeAfter (m : Mode) : Instr → Mode
  | .halt => .halt
  | .stop => .stop
  | _ => m

/-- `u` with the count of drawn bits and the mode as `i` leaves them. -/
def hiddenAfter (i : Instr) (u : State) : State :=
  { u with mode := modeAfter u.mode i, draws := if drawsBit i then u.draws + 1 else u.draws }

/-- The instruction draws no bit and enters no mode. -/
def Visible (i : Instr) : Prop := ∀ u, hiddenAfter i u = u

/-- `i` has changed `s` to `u` before its end at `target`. -/
structure CompletesVia (i : Instr) (s u t : State) (target : Addr) (inhibit : Bool) : Prop where
  confined : Confined (footprint i s) (pswMask i s) s u
  ends : t = finish s (hiddenAfter i u) target inhibit
  flows : sequential i = true → flows i s
  inhibits : isSkip i = false → inhibit = inhibits i

def Completes (i : Instr) (s t : State) : Prop := ∃ u target inhibit, CompletesVia i s u t target inhibit

section
variable {fp : List Nat} {m : Byte} {i : Instr} {s u t : State} {target : Addr} {inhibit : Bool}

/-! ### The ends of instructions -/

/-- `hu` says what the instruction has changed before its end. -/
theorem completes_retire (hvisible : Visible i) (hinhibit : inhibits i = inhibit)
    (hu : Confined (footprint i s) (pswMask i s) s u) (h : retire i s u inhibit = .ok t) : Completes i s t := by
  obtain ⟨hflow, rfl⟩ := retire_iff.mp h
  exact ⟨u, _, _, hu, by rw [hvisible], fun _ => hflow, fun _ => hinhibit.symm⟩

theorem completes_finish (hvisible : Visible i) (hseq : sequential i = false) (hinhibit : inhibits i = inhibit)
    (hu : Confined (footprint i s) (pswMask i s) s u) : Completes i s (finish s u target inhibit) :=
  ⟨u, target, inhibit, hu, by rw [hvisible], fun h => absurd h (by rw [hseq]; decide), fun _ => hinhibit.symm⟩

theorem completes_branchTo (hvisible : Visible i) (hseq : sequential i = false) (hinhibit : inhibits i = inhibit)
    (hu : Confined (footprint i s) (pswMask i s) s u) (h : branchTo s u target inhibit = .ok t) : Completes i s t := by
  obtain ⟨-, rfl⟩ := branchTo_iff.mp h
  exact completes_finish hvisible hseq hinhibit hu

/-! ### The shared shapes -/

theorem confined_toReg {writes : Bool} {r : Reg8} {x : Byte × Byte} (h : Confined fp m s u)
    (hr : writes = true → regAddr s r ∈ fp) (hfp : 0xFFFFA ∈ fp) (hp : Within m s.psw x.2) :
    Confined fp m s (if writes then (u.setR8 s.bank r x.1).setPsw x.2 else u.setPsw x.2) := by
  cases writes with
  | false => exact h.setPsw hfp hp
  | true => exact Confined.setPsw (h.trans (confined_setR8 (hr rfl))) hfp hp

theorem saddrAddr_ne_psw (off : Byte) : saddrAddr off ≠ 0xFFFFA := by
  have := off.isLt
  unfold saddrAddr
  split <;> omega

theorem modifyByte_value {α : Type} {next : Addr} {o : MemOp} {f : Byte → Byte × α} {x : α}
    (h : modifyByte next o f s = .ok (x, u)) : ∃ v, x = (f v).2 := by
  obtain ⟨_, v, _, -, -, -, -, hx⟩ := modifyByte_iff.mp h
  exact ⟨v, hx⟩

/-- `hfp` names the footprint of the operation, with or without its destination. -/
theorem completes_alu {f : Byte → Byte → Byte → Byte × Byte} {writes : Bool} {o : AluOp} (hvisible : Visible i)
    (hinhibit : inhibits i = false) (hfp : footprint i s = if writes then aluFootprint s o else pswAt)
    (h : execAlu i f writes o s = .ok t) (hf : ∀ p a b, Within (pswMask i s) p (f p a b).2) : Completes i s t := by
  have hpsw : 0xFFFFA ∈ footprint i s := by
    rw [hfp]
    cases writes <;> cases o <;> simp [aluFootprint, pswAt]
  cases o with
  | aImm d =>
    refine completes_retire hvisible hinhibit (confined_toReg (.refl ..) (fun hw => ?_) hpsw (hf ..)) h
    simp [hfp, hw, aluFootprint]
  | aReg r =>
    refine completes_retire hvisible hinhibit (confined_toReg (.refl ..) (fun hw => ?_) hpsw (hf ..)) h
    simp [hfp, hw, aluFootprint]
  | regA r =>
    refine completes_retire hvisible hinhibit (confined_toReg (.refl ..) (fun hw => ?_) hpsw (hf ..)) h
    simp [hfp, hw, aluFootprint]
  | aMem o =>
    obtain ⟨⟨v, u⟩, hload, h⟩ := bind_ok.mp h
    refine completes_retire hvisible hinhibit (confined_toReg (confined_loadByte hload) (fun hw => ?_) hpsw (hf ..)) h
    simp [hfp, hw, aluFootprint]
  | saddrImm off d =>
    cases writes with
    | false =>
      obtain ⟨⟨v, u⟩, hload, h⟩ := bind_ok.mp h
      exact completes_retire hvisible hinhibit ((confined_loadByte hload).setPsw hpsw (hf ..)) h
    | true =>
      obtain ⟨⟨p, u⟩, hmodify, h⟩ := bind_ok.mp h
      obtain ⟨v, rfl⟩ := modifyByte_value hmodify
      have hat : byteAt s (.saddr off) = [saddrAddr off] := rfl
      have hu := confined_modifyByte (fp := footprint i s) (m := pswMask i s) hmodify
        (by simp [hat, hfp, aluFootprint]) fun hpswAt => absurd (List.cons.inj hpswAt).1 (saddrAddr_ne_psw off)
      exact completes_retire hvisible hinhibit (hu.setPsw hpsw (hf ..)) h
  | absImm es w d =>
    obtain ⟨⟨v, u⟩, hload, h⟩ := bind_ok.mp h
    exact completes_retire hvisible hinhibit ((confined_loadByte hload).setPsw hpsw (hf ..)) h

theorem confined_loadAluW {o : AluWOp} {v : Word} (h : loadAluW o s = .ok (v, u)) : Confined fp m s u := by
  cases o with
  | imm w =>
    cases h
    exact .refl ..
  | reg rp =>
    cases h
    exact .refl ..
  | mem o => exact confined_loadWord h

/-- `hdraws` says that the instruction draws one bit and does nothing else of that kind. -/
theorem completes_aluW {f : Word → Word → Arith16} {writes : Bool} {o : AluWOp}
    (hdraws : ∀ u, hiddenAfter i u = u.drawBit.2) (hinhibit : inhibits i = false)
    (hfp : footprint i s = if writes then pairAddrs s .ax ++ pswAt else pswAt)
    (hmask : pswMask i s = 0x51) (h : execAluW i f writes o s = .ok t) : Completes i s t := by
  have hpsw : 0xFFFFA ∈ footprint i s := by
    rw [hfp]
    cases writes <;> simp [pswAt]
  obtain ⟨⟨v, u⟩, hload, h⟩ := bind_ok.mp h
  obtain ⟨hflow, rfl⟩ := retire_iff.mp h
  have hp : Within (pswMask i s) s.psw (flags16 s.psw (f (s.r16 s.bank .ax) v) (Config.freeBit u.draws)) := by
    rw [hmask]
    exact within_zAcCy ..
  cases writes with
  | false =>
    refine ⟨_, nextPc i s, false, (confined_loadAluW hload).setPsw hpsw hp, ?_, fun _ => hflow, fun _ => hinhibit.symm⟩
    rw [hdraws]
    rfl
  | true =>
    have hax := confined_setR16 (fp := footprint i s) (m := pswMask i s) (s := u) (b := s.bank) (rp := .ax)
      (v := (f (s.r16 s.bank .ax) v).res) (by simp [hfp, pairAddrs, regAddr]) (by simp [hfp, pairAddrs, regAddr])
    refine ⟨_, nextPc i s, false, Confined.setPsw ((confined_loadAluW hload).trans hax) hpsw hp, ?_, fun _ => hflow,
      fun _ => hinhibit.symm⟩
    rw [hdraws]
    rfl

theorem completes_shift8 {r : Reg8} {x : Byte × Bool} (hvisible : Visible i) (hinhibit : inhibits i = false)
    (hfp : footprint i s = regAddr s r :: pswAt) (hmask : pswMask i s = 0x01) (h : execShift8 i r x s = .ok t) :
    Completes i s t := by
  have hr := confined_setR8 (fp := footprint i s) (m := pswMask i s) (s := s) (b := s.bank) (r := r) (v := x.1)
    (by simp [hfp, regAddr])
  refine completes_retire hvisible hinhibit (hr.setPsw (by simp [hfp, pswAt]) ?_) h
  rw [hmask]
  exact within_setCY ..

theorem completes_shift16 {rp : Reg16} {x : Word × Bool} (hvisible : Visible i) (hinhibit : inhibits i = false)
    (hfp : footprint i s = pairAddrs s rp ++ pswAt) (hmask : pswMask i s = 0x01) (h : execShift16 i rp x s = .ok t) :
    Completes i s t := by
  have hrp := confined_setR16 (fp := footprint i s) (m := pswMask i s) (s := s) (b := s.bank) (rp := rp) (v := x.1)
    (by simp [hfp, pairAddrs, regAddr]) (by simp [hfp, pairAddrs, regAddr])
  refine completes_retire hvisible hinhibit (hrp.setPsw (by simp [hfp, pswAt]) ?_) h
  rw [hmask]
  exact within_setCY ..

theorem completes_toCy {f : Bool → Bool → Bool} {l : BitLoc} {n : BitVec 3} (hvisible : Visible i)
    (hinhibit : inhibits i = false) (hfp : footprint i s = pswAt) (hmask : pswMask i s = 0x01)
    (h : execToCy i f l n s = .ok t) : Completes i s t := by
  obtain ⟨⟨v, u⟩, hload, h⟩ := bind_ok.mp h
  refine completes_retire hvisible hinhibit ((confined_loadBitByte hload).setPsw_of_kept (by simp [hfp, pswAt]) ?_) h
  rw [hmask]
  exact within_setCY ..

theorem completes_toBit {b : Bool} {l : BitLoc} {n : BitVec 3} (hvisible : Visible i)
    (hinhibit : inhibits i = isPswBit l) (hfp : footprint i s = bitAt s l) (hmask : pswMask i s = bitMask s l n)
    (h : execToBit i b l n s = .ok t) : Completes i s t := by
  obtain ⟨u, hmodify, h⟩ := bind_ok.mp h
  refine completes_retire hvisible hinhibit (confined_modifyBit hmodify (by simp [hfp]) fun hat => ?_) h
  rw [hmask]
  exact within_bitMask hat s.psw

theorem completes_callTo (hvisible : Visible i) (hseq : sequential i = false) (hinhibit : inhibits i = false)
    (hfp : footprint i s = spAt ++ frame4 s) (h : callTo i target s = .ok t) : Completes i s t := by
  obtain ⟨-, u, hpush, rfl⟩ := callTo_iff.mp h
  obtain ⟨hok, rfl⟩ := push4_iff.mp hpush
  exact completes_finish hvisible hseq hinhibit (confined_pushed hok (by simp [hfp]) (by simp [hfp]))

theorem completes_branchIf {cond : Bool} {d : Byte} (hvisible : Visible i) (hseq : sequential i = false)
    (hinhibit : inhibits i = false) (h : branchIf i cond d s = .ok t) : Completes i s t := by
  obtain ⟨-, -, rfl⟩ | ⟨-, -, rfl⟩ := branchIf_iff.mp h
  · exact completes_finish hvisible hseq hinhibit (.refl ..)
  · exact completes_finish hvisible hseq hinhibit (.refl ..)

/-- The latch of a skip is not said here (`47_branch_skip.md` R334). -/
theorem completes_skipIf {cond : Bool} (hvisible : Visible i) (hseq : sequential i = false) (hskip : isSkip i = true)
    (h : skipIf i cond s = .ok t) : Completes i s t := by
  have hnotSeq : sequential i = true → flows i s := fun h => absurd h (by rw [hseq]; decide)
  have hnotSkip : ∀ b, isSkip i = false → b = inhibits i := fun _ h => absurd h (by rw [hskip]; decide)
  obtain ⟨-, -, j, n, -, -, -, rfl⟩ | ⟨-, -, rfl⟩ := skipIf_iff.mp h
  · exact ⟨s, _, _, .refl .., by rw [hvisible], hnotSeq, hnotSkip _⟩
  · exact ⟨s, _, _, .refl .., by rw [hvisible], hnotSeq, hnotSkip _⟩

theorem completes_returnFromException (hvisible : Visible i) (hseq : sequential i = false) (hinhibit : inhibits i = true)
    (hfp : footprint i s = pswAt ++ spAt) (hmask : pswMask i s = 0xFF) (h : returnFromException s = .ok t) :
    Completes i s t := by
  obtain ⟨-, l, b, v, p, -, -, -, -, rfl⟩ := returnFromException_iff.mp h
  have hsp := confined_sp_whole (fp := footprint i s) (m := pswMask i s) (s := s) (w := s.sp + 4)
    (fun hinv => even_add hinv.spEven (by decide)) (by simp [hfp])
  refine completes_finish hvisible hseq hinhibit (hsp.setPsw (p := p) (by simp [hfp, pswAt]) ?_)
  rw [hmask]
  exact within_all ..

end

end Sys2Proof.Laws.Effects
end

section

/-! # Every instruction that completes stays within its footprint

The cases of `Completes`, one for each instruction, and what they give: the frames of `10_state.md` R20 and the invariant. -/

namespace Sys2Proof.Laws.Completed
open Sys2Proof.Machine Sys2Proof.Laws.Completion Sys2Proof.Laws.PswBits Sys2Proof.Laws.CallReturn Sys2Proof.Laws.Frame
  Sys2Proof.Laws.Effects

set_option Elab.async false

section
variable {s t : State}

theorem ok_of_next {r : Res State} (h : outcome r = .next t) : r = .ok t := outcome_eq_next.mp h

/-! ### One register, one pair, or PSW alone -/

theorem completes_reg {i : Instr} {r : Reg8} {v : Byte} (hvisible : Visible i) (hinhibit : inhibits i = false)
    (hfp : footprint i s = [regAddr s r]) (h : retire i s (s.setR8 s.bank r v) false = .ok t) : Completes i s t :=
  completes_retire hvisible hinhibit (confined_setR8 (by simp [hfp, regAddr])) h

theorem completes_loadReg {i : Instr} {r : Reg8} {o : MemOp} (hvisible : Visible i) (hinhibit : inhibits i = false)
    (hfp : footprint i s = [regAddr s r])
    (h : (loadByte o s >>= fun x => retire i s (x.2.setR8 s.bank r x.1) false) = .ok t) : Completes i s t := by
  obtain ⟨⟨v, u⟩, hload, h⟩ := bind_ok.mp h
  exact completes_retire hvisible hinhibit ((confined_loadByte hload).trans (confined_setR8 (by simp [hfp, regAddr]))) h

theorem completes_pair {i : Instr} {rp : Reg16} {v : Word} (hvisible : Visible i) (hinhibit : inhibits i = false)
    (hfp : footprint i s = pairAddrs s rp) (h : retire i s (s.setR16 s.bank rp v) false = .ok t) : Completes i s t :=
  completes_retire hvisible hinhibit
    (confined_setR16 (by simp [hfp, pairAddrs, regAddr]) (by simp [hfp, pairAddrs, regAddr])) h

theorem completes_loadPair {i : Instr} {rp : Reg16} {o : MemOp} (hvisible : Visible i) (hinhibit : inhibits i = false)
    (hfp : footprint i s = pairAddrs s rp)
    (h : (loadWord o s >>= fun x => retire i s (x.2.setR16 s.bank rp x.1) false) = .ok t) : Completes i s t := by
  obtain ⟨⟨v, u⟩, hload, h⟩ := bind_ok.mp h
  exact completes_retire hvisible hinhibit ((confined_loadWord hload).trans
    (confined_setR16 (by simp [hfp, pairAddrs, regAddr]) (by simp [hfp, pairAddrs, regAddr]))) h

theorem completes_psw {i : Instr} {p : Byte} {inhibit : Bool} (hvisible : Visible i) (hinhibit : inhibits i = inhibit)
    (hfp : footprint i s = pswAt) (hp : Within (pswMask i s) s.psw p) (h : retire i s (s.setPsw p) inhibit = .ok t) :
    Completes i s t :=
  completes_retire hvisible hinhibit (confined_psw (by simp [hfp, pswAt]) hp) h

/-! ### The instructions that are no shared shape -/

/-- A store of one byte, then the end; `hfp` and `hmask` name its footprint and its mask. -/
theorem completes_storeByte {i : Instr} {o : MemOp} {v : Byte} {inhibit : Bool} (hvisible : Visible i)
    (hinhibit : inhibits i = inhibit) (hfp : footprint i s = byteAt s o) (hmask : pswMask i s = storeMask s o)
    (h : (storeByte (nextPc i s) o v s >>= fun t => retire i s t inhibit) = .ok t) : Completes i s t := by
  obtain ⟨u, hstore, h⟩ := bind_ok.mp h
  refine completes_retire hvisible hinhibit (confined_storeByte hstore (by simp [hfp]) fun hat => ?_) h
  rw [hmask]
  exact within_storeMask hat ..

theorem completes_storeWord {i : Instr} {o : MemOp} {v : Word} (hvisible : Visible i) (hinhibit : inhibits i = false)
    (hfp : footprint i s = wordAt s o)
    (h : (storeWord (nextPc i s) o v s >>= fun t => retire i s t false) = .ok t) : Completes i s t := by
  obtain ⟨u, hstore, h⟩ := bind_ok.mp h
  exact completes_retire hvisible hinhibit (confined_storeWord hstore (by simp [hfp])) h

theorem completes_modifyWord {i : Instr} {o : MemOp} {f : Word → Word} (hvisible : Visible i)
    (hinhibit : inhibits i = false) (hfp : footprint i s = wordAt s o)
    (h : (modifyWord (nextPc i s) o f s >>= fun t => retire i s t false) = .ok t) : Completes i s t := by
  obtain ⟨u, hmodify, h⟩ := bind_ok.mp h
  exact completes_retire hvisible hinhibit (confined_modifyWord hmodify (by simp [hfp])) h

theorem completes_xchAM {o : MemOp} (h : exec (.xchAM o) s = .next t) : Completes (.xchAM o) s t := by
  obtain ⟨⟨v, u⟩, hmodify, h⟩ := bind_ok.mp (ok_of_next h)
  have hu := confined_modifyByte (fp := footprint (.xchAM o) s) (m := pswMask (.xchAM o) s) hmodify
    (List.subset_cons_self ..) fun hat => within_storeMask hat ..
  exact completes_retire (fun _ => rfl) rfl (hu.trans (confined_setR8 (by simp [footprint, regAddr]))) h

theorem completes_movs {es : Bool} {off : Byte} (h : exec (.movs es off) s = .next t) : Completes (.movs es off) s t := by
  obtain ⟨u, hstore, h⟩ := bind_ok.mp (ok_of_next h)
  have hu := confined_storeByte (fp := footprint (.movs es off) s) (m := pswMask (.movs es off) s) hstore
    (List.subset_append_right ..) fun hat => within_right (within_storeMask hat ..)
  exact completes_retire (fun _ => rfl) rfl
    (hu.setPsw_of_kept (by simp [footprint, pswAt]) (within_left (within_flagsMovs ..))) h

/-- INC and DEC of a byte: the flags go over what the store has left in PSW (log 36). -/
theorem completes_incDecM {i : Instr} {o : MemOp} {f : Byte → Byte → Byte × Byte} (hvisible : Visible i)
    (hinhibit : inhibits i = false) (hfp : footprint i s = pswAt ++ byteAt s o)
    (hmask : pswMask i s = 0x50 ||| storeMask s o) (hf : ∀ p v, Within 0x50 p (f p v).2)
    (h : (modifyByte (nextPc i s) o (fun v => ((f s.psw v).1, v)) s >>= fun x =>
      retire i s (x.2.setPsw (f x.2.psw x.1).2) false) = .ok t) : Completes i s t := by
  obtain ⟨⟨v, u⟩, hmodify, h⟩ := bind_ok.mp h
  have hu := confined_modifyByte (fp := footprint i s) (m := pswMask i s) hmodify (by simp [hfp]) fun hat => by
    rw [hmask]
    exact within_right (within_storeMask hat ..)
  refine completes_retire hvisible hinhibit (hu.setPsw_of_kept (by simp [hfp, pswAt]) ?_) h
  rw [hmask]
  exact within_left (hf ..)

theorem completes_btclr {l : BitLoc} {n : BitVec 3} {d : Byte} (h : exec (.btclr l n d) s = .next t) :
    Completes (.btclr l n d) s t := by
  obtain ⟨⟨v, u⟩, hload, h⟩ := bind_ok.mp (ok_of_next h)
  have hu : Confined (footprint (.btclr l n d) s) (pswMask (.btclr l n d) s) s u := confined_loadBitByte hload
  simp only at h
  split at h
  · obtain ⟨w, hclear, h⟩ := bind_ok.mp h
    refine completes_branchTo (fun _ => rfl) rfl rfl ?_ h
    cases l with
    | a =>
      obtain rfl := Except.ok.inj hclear
      exact hu.trans (confined_setR8 (by simp [footprint, bitAt, regAddr]))
    | mem o =>
      obtain ⟨a, ha, hstore⟩ := bind_ok.mp hclear
      obtain ⟨-, hw⟩ := store8_iff.mp hstore
      obtain ⟨b, hb, hr⟩ := loadByte_iff.mp hload
      obtain rfl : a = b := Except.ok.inj (ha.symm.trans hb)
      have hat : bitAt s (.mem o) = [a] := byteAt_of_ok ha
      refine hu.trans (confined_byteWritten hw (by simp [footprint, hat]) ?_)
      rintro rfl
      rw [byteRead_psw hr, byteRead_pswAt hr]
      exact within_bitMask (by rw [hat, pswAt]) s.psw
  · exact completes_retire (fun _ => rfl) rfl hu h

theorem completes_callRel {d : Word} (h : exec (.callRel d) s = .next t) : Completes (.callRel d) s t := by
  obtain ⟨u, hcall, h⟩ := bind_ok.mp (ok_of_next h)
  obtain ⟨v, target, inhibit, hv, rfl, -, -⟩ := completes_callTo (i := .callRel d) (fun _ => rfl) rfl rfl rfl hcall
  obtain ⟨-, rfl⟩ := branchTo_iff.mp h
  exact completes_finish (u := v) (i := .callRel d) (fun _ => rfl) rfl rfl hv

theorem completes_callt {k : BitVec 5} (h : exec (.callt k) s = .next t) : Completes (.callt k) s t := by
  obtain ⟨⟨w, u⟩, hread, h⟩ := bind_ok.mp (ok_of_next h)
  have hr := read16_iff.mp hread
  obtain ⟨-, v, hpush, rfl⟩ := callTo_iff.mp h
  obtain ⟨hok, rfl⟩ := push4_iff.mp hpush
  have hframe : frame4 u = frame4 s := by rw [hr.frame]; rfl
  have hv : Confined (footprint (.callt k) s) (pswMask (.callt k) s) s (Obligations.pushed u (nextPc (.callt k) u) 0x00) :=
    (confined_wordRead hr).trans (confined_pushed hok (by simp [footprint]) (by simp [footprint, hframe]))
  have hends : ∀ v a b, finish u v a b = finish s v a b := fun v a b => by
    simp only [finish_eq, wordRead_pmcWritten hr]
  have hdone := completes_finish (i := .callt k) (target := abs16 w) (fun _ => rfl) rfl rfl hv
  rwa [← hends] at hdone

theorem completes_brk (h : exec .brk s = .next t) : Completes .brk s t := by
  obtain ⟨u, hpush, hend⟩ := bind_ok.mp (ok_of_next h)
  obtain rfl := Except.ok.inj hend
  obtain ⟨-, henter⟩ := pushing_iff.mp hpush
  obtain ⟨w, v, x, hr, hframe4, rfl⟩ := enterException_iff.mp henter
  obtain ⟨hok, rfl⟩ := push4_iff.mp hframe4
  have hframe : frame4 v = frame4 s := by rw [hr.frame]; rfl
  have hx : Confined (footprint .brk s) (pswMask .brk s) s (Obligations.pushed v (nextPc .brk s) v.psw) :=
    (confined_wordRead hr).trans (confined_pushed hok (by simp [footprint]) (by simp [footprint, hframe]))
  have hu := hx.setPsw_of_kept (p := setIE v.psw false) (by simp [footprint, pswAt]) (within_setIE ..)
  have hdone := completes_finish (i := .brk) (target := abs16 w) (fun _ => rfl) rfl rfl hu
  exact hdone

theorem completes_ret (h : exec .ret s = .next t) : Completes .ret s t := by
  have hret := ok_of_next h
  split at hret
  · obtain ⟨a, -, hend⟩ := bind_ok.mp hret
    obtain rfl := Except.ok.inj hend
    exact completes_finish (i := .ret) (fun _ => rfl) rfl rfl
      (confined_sp_whole (fun hinv => even_add hinv.spEven (by decide)) (List.Subset.refl _))
  · cases hret

theorem completes_popPsw (h : exec .popPsw s = .next t) : Completes .popPsw s t := by
  have hpop := ok_of_next h
  split at hpop
  · obtain ⟨p, -, hend⟩ := bind_ok.mp hpop
    have hsp := confined_sp_whole (fp := footprint .popPsw s) (m := pswMask .popPsw s) (s := s) (w := s.sp + 2)
      (fun hinv => even_add hinv.spEven (by decide)) (by simp [footprint])
    exact completes_retire (fun _ => rfl) rfl (hsp.setPsw (p := p) (by simp [footprint, pswAt]) (within_all ..)) hend
  · cases hpop

theorem completes_popR {rp : Reg16} (h : exec (.popR rp) s = .next t) : Completes (.popR rp) s t := by
  have hpop := ok_of_next h
  split at hpop
  · obtain ⟨l, -, hpop⟩ := bind_ok.mp hpop
    obtain ⟨b, -, hend⟩ := bind_ok.mp hpop
    have hsp := confined_sp_whole (fp := footprint (.popR rp) s) (m := pswMask (.popR rp) s) (s := s) (w := s.sp + 2)
      (fun hinv => even_add hinv.spEven (by decide)) (by simp [footprint])
    exact completes_retire (fun _ => rfl) rfl (hsp.trans (confined_setR16
      (by simp [footprint, pairAddrs, regAddr]) (by simp [footprint, pairAddrs, regAddr]))) hend
  · cases hpop

theorem completes_push {i : Instr} {lo hi : Byte} (hvisible : Visible i) (hinhibit : inhibits i = false)
    (hfp : footprint i s = spAt ++ frame2 s)
    (h : (pushing (nextPc i s) [-1, -2] (push2 lo hi) s >>= fun t => retire i s t false) = .ok t) : Completes i s t := by
  obtain ⟨u, hpush, h⟩ := bind_ok.mp h
  obtain ⟨-, hpush⟩ := pushing_iff.mp hpush
  exact completes_retire hvisible hinhibit (confined_push2 hpush (by simp [hfp]) (by simp [hfp])) h

/-- SP is stored with bit 0 cleared (`10_state.md` R33). -/
theorem completes_setSp {i : Instr} {w : Word} (hvisible : Visible i) (hinhibit : inhibits i = false)
    (hfp : footprint i s = spAt) (h : retire i s (s.setSp w) false = .ok t) : Completes i s t :=
  completes_retire hvisible hinhibit (confined_sp_whole (fun _ => by simp) (by simp [hfp])) h

end

/-! ### Every instruction -/

theorem completes {i : Instr} {s t : State} (h : exec i s = .next t) : Completes i s t := by
  cases i with
  | movRI | movAR | movRA | onebR | clrbR => exact completes_reg (fun _ => rfl) rfl rfl (ok_of_next h)
  | movMI | movMA | onebM | clrbM => exact completes_storeByte (fun _ => rfl) rfl rfl rfl (ok_of_next h)
  | movAM | movRM => exact completes_loadReg (fun _ => rfl) rfl rfl (ok_of_next h)
  | movEsI => exact completes_retire (fun _ => rfl) rfl (confined_es (by simp [footprint])) (ok_of_next h)
  | movEsSaddr =>
    obtain ⟨⟨v, u⟩, hload, h⟩ := bind_ok.mp (ok_of_next h)
    exact completes_retire (fun _ => rfl) rfl ((confined_loadByte hload).trans (confined_es (by simp [footprint]))) h
  | xchAR =>
    exact completes_retire (fun _ => rfl) rfl (.trans (confined_setR8 (by simp [footprint, regAddr]))
      (confined_setR8 (by simp [footprint, regAddr]))) (ok_of_next h)
  | xchAM => exact completes_xchAM h
  | movs => exact completes_movs h
  | movwRI | movwAxR | movwRAx | onew | clrw | mulu | incwR | decwR =>
    exact completes_pair (fun _ => rfl) rfl rfl (ok_of_next h)
  | movwMI | movwMAx => exact completes_storeWord (fun _ => rfl) rfl rfl (ok_of_next h)
  | movwAxM | movwRM => exact completes_loadPair (fun _ => rfl) rfl rfl (ok_of_next h)
  | xchw =>
    exact completes_retire (fun _ => rfl) rfl (.trans
      (confined_setR16 (by simp [footprint, pairAddrs, regAddr]) (by simp [footprint, pairAddrs, regAddr]))
      (confined_setR16 (by simp [footprint, pairAddrs, regAddr]) (by simp [footprint, pairAddrs, regAddr]))) (ok_of_next h)
  | add | addc | sub | subc | cmp =>
    exact completes_alu (fun _ => rfl) rfl rfl (ok_of_next h) (fun _ _ _ => within_flags8 ..)
  | and | or | xor => exact completes_alu (fun _ => rfl) rfl rfl (ok_of_next h) (fun _ _ _ => within_setZ ..)
  | cmp0R => exact completes_psw (fun _ => rfl) rfl rfl (within_zAcCy ..) (ok_of_next h)
  | cmp0M | cmps =>
    obtain ⟨⟨v, u⟩, hload, h⟩ := bind_ok.mp (ok_of_next h)
    exact completes_retire (fun _ => rfl) rfl
      ((confined_loadByte hload).setPsw_of_kept (by simp [footprint, pswAt]) (within_zAcCy ..)) h
  | addw | subw | cmpw => exact completes_aluW (fun _ => rfl) rfl rfl rfl (ok_of_next h)
  | addwSp | subwSp => exact completes_setSp (fun _ => rfl) rfl rfl (ok_of_next h)
  | incR | decR =>
    exact completes_retire (fun _ => rfl) rfl (Confined.setPsw (confined_setR8 (by simp [footprint, regAddr]))
      (by simp [footprint, pswAt]) (within_incDec ..)) (ok_of_next h)
  | incM =>
    exact completes_incDecM (f := incByte) (fun _ => rfl) rfl rfl rfl (fun _ _ => within_incDec ..) (ok_of_next h)
  | decM =>
    exact completes_incDecM (f := decByte) (fun _ => rfl) rfl rfl rfl (fun _ _ => within_incDec ..) (ok_of_next h)
  | incwM | decwM => exact completes_modifyWord (fun _ => rfl) rfl rfl (ok_of_next h)
  | shr | shl | sar | ror | rol | rorc | rolc => exact completes_shift8 (fun _ => rfl) rfl rfl rfl (ok_of_next h)
  | shrw | shlw | sarw | rolwc => exact completes_shift16 (fun _ => rfl) rfl rfl rfl (ok_of_next h)
  | mov1Cy | and1 | or1 | xor1 => exact completes_toCy (fun _ => rfl) rfl rfl rfl (ok_of_next h)
  | mov1Bit | set1 | clr1 => exact completes_toBit (fun _ => rfl) rfl rfl rfl (ok_of_next h)
  | set1Cy | clr1Cy | not1Cy => exact completes_psw (fun _ => rfl) rfl rfl (within_setCY ..) (ok_of_next h)
  | callR | callAbs16 | callAbs20 => exact completes_callTo (fun _ => rfl) rfl rfl rfl (ok_of_next h)
  | callRel => exact completes_callRel h
  | callt => exact completes_callt h
  | brk => exact completes_brk h
  | ret => exact completes_ret h
  | reti | retb => exact completes_returnFromException (fun _ => rfl) rfl rfl rfl rfl (ok_of_next h)
  | pushPsw | pushR => exact completes_push (fun _ => rfl) rfl rfl (ok_of_next h)
  | popPsw => exact completes_popPsw h
  | popR => exact completes_popR h
  | brAx | brAbs16 | brAbs20 =>
    obtain rfl := Except.ok.inj (ok_of_next h)
    exact completes_finish (fun _ => rfl) rfl rfl (.refl ..)
  | brRel8 | brRel16 => exact completes_branchTo (fun _ => rfl) rfl rfl (.refl ..) (ok_of_next h)
  | bc | bnc | bz | bnz | bh | bnh => exact completes_branchIf (fun _ => rfl) rfl rfl (ok_of_next h)
  | bt =>
    obtain ⟨⟨v, u⟩, hload, h⟩ := bind_ok.mp (ok_of_next h)
    simp only at h
    split at h
    · exact completes_branchTo (fun _ => rfl) rfl rfl (confined_loadBitByte hload) h
    · exact completes_retire (fun _ => rfl) rfl (confined_loadBitByte hload) h
  | bf =>
    obtain ⟨⟨v, u⟩, hload, h⟩ := bind_ok.mp (ok_of_next h)
    simp only at h
    split at h
    · exact completes_retire (fun _ => rfl) rfl (confined_loadBitByte hload) h
    · exact completes_branchTo (fun _ => rfl) rfl rfl (confined_loadBitByte hload) h
  | btclr => exact completes_btclr h
  | skc | sknc | skz | sknz | skh | sknh => exact completes_skipIf (fun _ => rfl) rfl rfl (ok_of_next h)
  | sel => exact completes_psw (fun _ => rfl) rfl rfl (within_setRBS ..) (ok_of_next h)
  | nop => exact completes_retire (fun _ => rfl) rfl (.refl ..) (ok_of_next h)
  | ei | di => exact completes_psw (fun _ => rfl) rfl rfl (within_setIE ..) (ok_of_next h)
  | halt | stop =>
    obtain ⟨hflow, rfl⟩ := retire_iff.mp (ok_of_next h)
    exact ⟨s, _, false, .refl .., rfl, fun _ => hflow, fun _ => rfl⟩
  | prefixAlone => cases h

/-! ### What the frames give -/

section
variable {i : Instr} {s t : State}

theorem within_iff {m p q : Byte} : (q ^^^ p) &&& ~~~m = 0 ↔ Within m p q := by
  have hdistrib : (q ^^^ p) &&& ~~~m = (q &&& ~~~m) ^^^ (p &&& ~~~m) := by
    ext j hj
    simp [Bool.and_xor_distrib_right]
  rw [Within, hdistrib]
  exact BitVec.xor_eq_zero_iff

/-- Settles O10: PSW is written before the end of the instruction, within the mask. -/
theorem onlyTheNamedFlagsChange : Obligations.OnlyTheNamedFlagsChange := by
  intro i s t h
  obtain ⟨u, _, _, hu, rfl, -, -⟩ := completes h
  exact within_iff.mpr hu.psw

/-- Settles O11: the end of the instruction sets `PmcSettle`; all before it keeps what the statement names. -/
theorem hiddenStateFrame : Obligations.HiddenStateFrame := by
  intro i s t h
  obtain ⟨u, _, _, hu, rfl, -, -⟩ := completes h
  refine ⟨hu.product, hu.pending, hu.resets, ?_, ?_, hu.pmcOnce, rfl⟩
  · change modeAfter u.mode i = _
    rw [hu.mode]
    cases i <;> rfl
  · change (if drawsBit i then u.draws + 1 else u.draws) = _
    rw [hu.draws]

/-- Settles O12: the end of the instruction sets the latch. -/
theorem intInhibitLatch : Obligations.IntInhibitLatch := by
  intro i s t h hskip
  obtain ⟨_, _, _, -, rfl, -, hinhibit⟩ := completes h
  exact hinhibit hskip

/-- A sequential instruction completes only where sequential flow stays in its fetch region (R77). -/
theorem flows_of_sequential (hseq : sequential i = true) (h : exec i s = .next t) : flows i s := by
  obtain ⟨_, _, _, -, -, hflow, -⟩ := completes h
  exact hflow hseq

/-- The mirror shows flash, which stays (`20_memory.md` R64). -/
theorem mirrorSource_flash (hok : s.product.ok = true) {a : Nat} (ha : mirrorSource s a ≤ s.product.flashTop) :
    region s.product (mirrorSource s a) = .flash := Exceptions.region_of_le_flashTop hok ha

/-- Settles O9: region by region, the part of the state that a byte lies in. -/
theorem onlyTheFootprintChanges : Obligations.OnlyTheFootprintChanges := by
  intro i s t a hinv hok h ha hmirror
  obtain ⟨u, _, _, hu, rfl, -, -⟩ := completes h
  change u.peek a = s.peek a
  have hsource : region s.product a = .mirror → mirrorSource u a = mirrorSource s a := fun hr => by
    have hpmc : u.pmc = s.pmc := hmirror hr
    rw [mirrorSource, mirrorSource, hpmc]
  rw [State.peek, State.peek, hu.product]
  cases hr : region s.product a with
  | cpu => exact congrArg some (hu.cpu hinv a hr ha)
  | regs =>
    have hk : 0xFFEE0 + (a - 0xFFEE0) = a := Nat.add_sub_cancel' (region_regs.mp hr).1
    exact congrArg some (hu.regs _ (by rwa [hk]))
  | ram => exact hu.mem a ha
  | flash => exact hu.mem a ha
  | ext => exact hu.mem a ha
  | mirror =>
    simp only [hsource hr]
    split
    · next hle => exact hu.flash _ (mirrorSource_flash hok hle)
    · rfl
  | reserved => rfl
  | device => rfl
  | unmapped => rfl

/-! ### Every step -/

/-- The fields that the invariant does not speak of. -/
theorem inv_finish (target : Addr) (inhibit : Bool) (hinv : t.Inv) : (finish s (hiddenAfter i t) target inhibit).Inv :=
  { hinv with
    settleWritten := fun h => by
      simp only [finish_pmcSettle, wrotePmc, Bool.and_eq_true] at h
      exact h.2 }

theorem inv_of_exec (hinv : s.Inv) (h : exec i s = .next t) : t.Inv := by
  obtain ⟨u, target, inhibit, hu, rfl, -, -⟩ := completes h
  exact inv_finish target inhibit (hu.inv hinv)

theorem flash_of_exec (h : exec i s = .next t) {a : Nat} (ha : region s.product a = .flash) :
    memRead a t.mem = memRead a s.mem ∧ t.product = s.product := by
  obtain ⟨u, _, _, hu, rfl, -, -⟩ := completes h
  exact ⟨hu.flash a ha, hu.product⟩

theorem inv_tick (hinv : s.Inv) : s.tick.Inv := { hinv with }

theorem inv_standby (hinv : s.Inv) : (standby s).Inv := by
  rw [standby]
  split
  · exact { hinv with }
  · exact { hinv with }

/-- An entry changes the frame, SP and PSW, in whatever bits, and what the invariant does not speak of. -/
theorem confined_enterException {vector : Nat} {ret : Addr} (h : enterException vector ret s = .ok t) :
    ∃ u pc, Confined (pswAt ++ spAt ++ frame4 s) 0xFF s u ∧ t = { u with pc := pc } := by
  obtain ⟨w, v, x, hr, hpush, rfl⟩ := enterException_iff.mp h
  obtain ⟨hok, rfl⟩ := push4_iff.mp hpush
  have hframe : frame4 v = frame4 s := by rw [hr.frame]; rfl
  have hx : Confined (pswAt ++ spAt ++ frame4 s) 0xFF s (Obligations.pushed v ret v.psw) :=
    (confined_wordRead hr).trans (confined_pushed hok (by simp) (by simp [hframe]))
  exact ⟨_, abs16 w, hx.setPsw (p := setIE v.psw false) (by simp [pswAt]) (within_all ..), rfl⟩

/-- What a reset leaves in memory was there before, but for RAM. -/
theorem inv_takeReset (hinv : s.Inv) (h : takeReset s = .ok t) : t.Inv := by
  obtain ⟨⟨w, u⟩, hread, hend⟩ := bind_ok.mp h
  obtain rfl := Except.ok.inj hend
  have hr := read16_iff.mp hread
  rw [hr.frame]
  obtain ⟨hreset, -⟩ := Exceptions.resetState
  exact { hreset with
    memCanonical := memWf_dropRam _ hinv.memCanonical
    memStored := fun c hc => hinv.memStored c (List.mem_of_mem_filter hc) }

theorem flash_of_takeReset (h : takeReset s = .ok t) {a : Nat} (ha : region s.product a = .flash) :
    memRead a t.mem = memRead a s.mem ∧ t.product = s.product := by
  obtain ⟨⟨w, u⟩, hread, hend⟩ := bind_ok.mp h
  obtain rfl := Except.ok.inj hend
  have hr := read16_iff.mp hread
  rw [hr.frame]
  exact ⟨Exceptions.memRead_dropRam (by simp [ha]) s.mem, rfl⟩

end

/-- Settles O7: the four ways of a step. -/
theorem stepKeepsInvariant : Obligations.StepKeepsInvariant := by
  intro s t hinv h
  obtain hreset | ⟨q, rest, -, haccept⟩ | ⟨i, n, -, hexec⟩ | rfl := stepWith_next h
  · exact inv_takeReset hinv hreset
  · obtain ⟨v, henter, rfl⟩ := acceptRequest_iff.mp haccept
    obtain ⟨u, pc, hu, rfl⟩ := confined_enterException henter
    exact { hu.inv hinv with }
  · exact inv_of_exec (inv_tick hinv) hexec
  · exact inv_standby hinv

/-- Settles O13: the four ways of a step. -/
theorem flashNeverChanges : Obligations.FlashNeverChanges := by
  intro s t a h ha
  obtain hreset | ⟨q, rest, -, haccept⟩ | ⟨i, n, -, hexec⟩ | rfl := stepWith_next h
  · exact flash_of_takeReset hreset ha
  · obtain ⟨v, henter, rfl⟩ := acceptRequest_iff.mp haccept
    obtain ⟨u, pc, hu, rfl⟩ := confined_enterException henter
    exact ⟨hu.flash a ha, hu.product⟩
  · exact flash_of_exec (s := s.tick) hexec ha
  · rw [standby]
    split
    · exact ⟨rfl, rfl⟩
    · exact ⟨rfl, rfl⟩

end Sys2Proof.Laws.Completed
end

section

/-! # The order of an instruction with a memory operand (`20_memory.md` R80, `60_exceptions.md` R363)

The address first, then the read if there is one, then the store if there is one, then the rest: `byteMeaning` and
`wordMeaning`. Every instruction with a byte or a word operand is of that form. -/

namespace Sys2Proof.Laws.OperandOrder
open Sys2Proof.Machine Sys2Proof.Laws.Completion

set_option Elab.async false

section
variable {i : Instr} {o : MemOp} {s : State}

/-! ### Bytes -/

/-- The read of an instruction that has one. -/
def readIf (reads : Bool) (a : Nat) (s : State) : Res (Byte × State) := if reads then read8 a s else .ok (0, s)

/-- The store of an instruction that has one. -/
def storeIf (stores : Bool) (next : Addr) (a : Nat) (v : Byte) (s : State) : Res State :=
  if stores then store8 next a v s else .ok s

/-- `w` gives the byte to store and `k` the rest, each from the byte read. -/
def byteMeaning (i : Instr) (o : MemOp) (w : Byte → Byte) (k : Byte × State → Res State) (s : State) : Res State := do
  let a ← byteAddr s o
  let x ← readIf (readsOperand i) a s
  let u ← storeIf (storesOperand x.1 i) (nextPc i s) a (w x.1) x.2
  k (x.1, u)

/-- `exec` gives `i` a meaning in that order, and a sequential `i` ends with `PC <- next`. -/
def ByteOrder (i : Instr) (o : MemOp) (s : State) : Prop :=
  ∃ w k, exec i s = outcome (byteMeaning i o w k s) ∧
    (sequential i = true → ∀ x, ∃ t inhibit, k x = retire i s t inhibit)

theorem loadByte_eq (w : Byte → Byte) (k : Byte × State → Res State) (hreads : readsOperand i = true)
    (hstores : ∀ v, storesOperand v i = false) :
    (loadByte o s >>= k) = byteMeaning i o w k s := by
  simp only [loadByte, byteMeaning, readIf, storeIf, bind_assoc, hreads, hstores, if_true, Bool.false_eq_true, if_false]
  rfl

theorem storeByte_eq (v : Byte) (k : State → Res State) (hreads : readsOperand i = false)
    (hstores : storesOperand 0 i = true) :
    (storeByte (nextPc i s) o v s >>= k) = byteMeaning i o (fun _ => v) (fun x => k x.2) s := by
  have hstore : ∀ a, storeIf (storesOperand 0 i) (nextPc i s) a v s = store8 (nextPc i s) a v s := fun a => if_pos hstores
  simp only [storeByte, byteMeaning, readIf, bind_assoc, hreads, Bool.false_eq_true, if_false, ← hstore]
  rfl

theorem modifyByte_eq {α : Type} (g : Byte → Byte × α) (f : α × State → Res State) (hreads : readsOperand i = true)
    (hstores : ∀ v, storesOperand v i = true) :
    (modifyByte (nextPc i s) o g s >>= f) =
      byteMeaning i o (fun v => (g v).1) (fun x => f ((g x.1).2, x.2)) s := by
  simp only [modifyByte, byteMeaning, readIf, storeIf, bind_assoc, hreads, hstores, if_true]
  rfl

/-- `harm` is the meaning of an instruction that reads its operand and ends. -/
theorem byteOrder_load {k : Byte × State → Res State} (hreads : readsOperand i = true)
    (hstores : ∀ v, storesOperand v i = false) (harm : exec i s = outcome (loadByte o s >>= k))
    (hend : sequential i = true → ∀ x, ∃ t b, k x = retire i s t b) : ByteOrder i o s :=
  ⟨id, k, harm.trans (congrArg outcome (loadByte_eq id k hreads hstores)), hend⟩

theorem byteOrder_store {v : Byte} {k : State → Res State} (hreads : readsOperand i = false)
    (hstores : storesOperand 0 i = true) (harm : exec i s = outcome (storeByte (nextPc i s) o v s >>= k))
    (hend : ∀ u, ∃ t b, k u = retire i s t b) : ByteOrder i o s :=
  ⟨_, _, harm.trans (congrArg outcome (storeByte_eq v k hreads hstores)), fun _ _ => hend _⟩

theorem byteOrder_modify {α : Type} {g : Byte → Byte × α} {f : α × State → Res State}
    (hreads : readsOperand i = true) (hstores : ∀ v, storesOperand v i = true)
    (harm : exec i s = outcome (modifyByte (nextPc i s) o g s >>= f))
    (hend : ∀ x, ∃ t b, f x = retire i s t b) : ByteOrder i o s :=
  ⟨_, _, harm.trans (congrArg outcome (modifyByte_eq g f hreads hstores)), fun _ _ => hend _⟩

/-- The two-operand operations; `writes` is false for CMP. -/
theorem byteOrder_alu {f : Byte → Byte → Byte → Byte × Byte} {writes : Bool} {p : AluOp} (ho : aluMemOp p = some o)
    (hreads : readsOperand i = true) (hstores : ∀ v, storesOperand v i = (writes && aluStores p))
    (harm : exec i s = outcome (execAlu i f writes p s)) : ByteOrder i o s := by
  cases p with
  | aImm d => cases ho
  | aReg r => cases ho
  | regA r => cases ho
  | aMem m =>
    obtain rfl := Option.some.inj ho
    exact byteOrder_load hreads (fun v => by rw [hstores, aluStores, Bool.and_false]) harm (fun _ _ => ⟨_, _, rfl⟩)
  | saddrImm off d =>
    obtain rfl := Option.some.inj ho
    cases writes with
    | false => exact byteOrder_load hreads hstores harm (fun _ _ => ⟨_, _, rfl⟩)
    | true => exact byteOrder_modify hreads hstores harm (fun _ => ⟨_, _, rfl⟩)
  | absImm es w d =>
    obtain rfl := Option.some.inj ho
    exact byteOrder_load hreads (fun v => by rw [hstores, aluStores, Bool.and_false]) harm (fun _ _ => ⟨_, _, rfl⟩)

theorem byteOrder_toCy {f : Bool → Bool → Bool} {l : BitLoc} {n : BitVec 3} (hl : bitMemOp l = some o)
    (hreads : readsOperand i = true) (hstores : ∀ v, storesOperand v i = false)
    (harm : exec i s = outcome (execToCy i f l n s)) : ByteOrder i o s := by
  cases l with
  | a => cases hl
  | mem m =>
    obtain rfl := Option.some.inj hl
    exact byteOrder_load hreads hstores harm (fun _ _ => ⟨_, _, rfl⟩)

theorem byteOrder_toBit {b : Bool} {l : BitLoc} {n : BitVec 3} (hl : bitMemOp l = some o)
    (hreads : readsOperand i = true) (hstores : ∀ v, storesOperand v i = true)
    (harm : exec i s = outcome (execToBit i b l n s)) : ByteOrder i o s := by
  cases l with
  | a => cases hl
  | mem m =>
    obtain rfl := Option.some.inj hl
    refine byteOrder_modify (g := fun v => (setBit8 v n.toNat b, ())) (f := fun x => retire i s x.2 (isPswBit (.mem m)))
      hreads hstores (harm.trans (congrArg outcome ?_)) (fun _ => ⟨_, _, rfl⟩)
    simp only [execToBit, modifyBit, bind_assoc]
    rfl

theorem byteOrder_btclr {l : BitLoc} {n : BitVec 3} {d : Byte} (hl : bitMemOp l = some o) :
    ByteOrder (.btclr l n d) o s := by
  cases l with
  | a => cases hl
  | mem m =>
    obtain rfl := Option.some.inj hl
    refine ⟨fun v => setBit8 v n.toNat false, fun x =>
      if x.1.getLsbD n.toNat then branchTo s x.2 (rel8 (.btclr (.mem m) n d) s d) (isPswBit (.mem m))
      else retire (.btclr (.mem m) n d) s x.2 (isPswBit (.mem m)), congrArg outcome ?_, fun h => by cases h⟩
    change (loadByte m s >>= _) = _
    cases ha : byteAddr s m with
    | error f => simp only [loadByte, byteMeaning, ha]; rfl
    | ok a =>
      have hclear : ∀ v u, clearBit (nextPc (.btclr (.mem m) n d) s) (.mem m) n v s u =
          store8 (nextPc (.btclr (.mem m) n d) s) a (setBit8 v n.toNat false) u := fun v u => by rw [clearBit, ha]; rfl
      simp only [loadByte, byteMeaning, readIf, ha, bind_assoc, readsOperand, if_true, hclear]
      refine bind_congr (m := Res) (x := read8 a s) fun y => ?_
      by_cases hbit : y.1.getLsbD n.toNat = true
      · have hstore : ∀ next b v u, storeIf (storesOperand y.1 (.btclr (.mem m) n d)) next b v u = store8 next b v u :=
          fun _ _ _ _ => if_pos hbit
        simp only [if_pos hbit, hstore]
      · have hstore : ∀ next b v u, storeIf (storesOperand y.1 (.btclr (.mem m) n d)) next b v u = .ok u :=
          fun _ _ _ _ => if_neg hbit
        simp only [if_neg hbit, hstore]
        rfl

theorem byteOrder_of_byteOperand (h : byteOperand i = some o) : ByteOrder i o s := by
  cases i with
  | movMI m d => cases h; exact byteOrder_store rfl rfl rfl (fun _ => ⟨_, _, rfl⟩)
  | movAM m => cases h; exact byteOrder_load rfl (fun _ => rfl) rfl (fun _ _ => ⟨_, _, rfl⟩)
  | movMA m => cases h; exact byteOrder_store rfl rfl rfl (fun _ => ⟨_, _, rfl⟩)
  | movRM r m => cases h; exact byteOrder_load rfl (fun _ => rfl) rfl (fun _ _ => ⟨_, _, rfl⟩)
  | movEsSaddr off => cases h; exact byteOrder_load rfl (fun _ => rfl) rfl (fun _ _ => ⟨_, _, rfl⟩)
  | xchAM m => cases h; exact byteOrder_modify rfl (fun _ => rfl) rfl (fun _ => ⟨_, _, rfl⟩)
  | onebM m => cases h; exact byteOrder_store rfl rfl rfl (fun _ => ⟨_, _, rfl⟩)
  | clrbM m => cases h; exact byteOrder_store rfl rfl rfl (fun _ => ⟨_, _, rfl⟩)
  | movs es off => cases h; exact byteOrder_store rfl rfl rfl (fun _ => ⟨_, _, rfl⟩)
  | add p => exact byteOrder_alu h rfl (fun _ => rfl) rfl
  | addc p => exact byteOrder_alu h rfl (fun _ => rfl) rfl
  | sub p => exact byteOrder_alu h rfl (fun _ => rfl) rfl
  | subc p => exact byteOrder_alu h rfl (fun _ => rfl) rfl
  | and p => exact byteOrder_alu h rfl (fun _ => rfl) rfl
  | or p => exact byteOrder_alu h rfl (fun _ => rfl) rfl
  | xor p => exact byteOrder_alu h rfl (fun _ => rfl) rfl
  | cmp p => exact byteOrder_alu (writes := false) h rfl (fun _ => rfl) rfl
  | cmp0M m => cases h; exact byteOrder_load rfl (fun _ => rfl) rfl (fun _ _ => ⟨_, _, rfl⟩)
  | cmps es off => cases h; exact byteOrder_load rfl (fun _ => rfl) rfl (fun _ _ => ⟨_, _, rfl⟩)
  | incM m => cases h; exact byteOrder_modify rfl (fun _ => rfl) rfl (fun _ => ⟨_, _, rfl⟩)
  | decM m => cases h; exact byteOrder_modify rfl (fun _ => rfl) rfl (fun _ => ⟨_, _, rfl⟩)
  | mov1Cy l n => exact byteOrder_toCy h rfl (fun _ => rfl) rfl
  | mov1Bit l n => exact byteOrder_toBit h rfl (fun _ => rfl) rfl
  | and1 l n => exact byteOrder_toCy h rfl (fun _ => rfl) rfl
  | or1 l n => exact byteOrder_toCy h rfl (fun _ => rfl) rfl
  | xor1 l n => exact byteOrder_toCy h rfl (fun _ => rfl) rfl
  | set1 l n => exact byteOrder_toBit h rfl (fun _ => rfl) rfl
  | clr1 l n => exact byteOrder_toBit h rfl (fun _ => rfl) rfl
  | bt l n d =>
    cases l with
    | a => cases h
    | mem m => cases h; exact byteOrder_load rfl (fun _ => rfl) rfl (fun h => by cases h)
  | bf l n d =>
    cases l with
    | a => cases h
    | mem m => cases h; exact byteOrder_load rfl (fun _ => rfl) rfl (fun h => by cases h)
  | btclr l n d => exact byteOrder_btclr h
  | _ => cases h

/-! ### Words -/

def readWordIf (reads : Bool) (a : Nat) (s : State) : Res (Word × State) := if reads then read16 a s else .ok (0, s)

def storeWordIf (stores : Bool) (next : Addr) (a : Nat) (v : Word) (s : State) : Res State :=
  if stores then store16 next a v s else .ok s

/-- The same order for a word operand; the word stored is that of `storedWord`. -/
def wordMeaning (i : Instr) (o : MemOp) (k : Word × State → Res State) (s : State) : Res State := do
  let a ← wordAddr s o
  let x ← readWordIf (readsOperand i) a s
  let u ← storeWordIf (storesOperand 0 i) (nextPc i s) a (storedWord s x.1 i) x.2
  k (x.1, u)

/-- `exec` gives `i` a meaning in that order, and `i` ends with `PC <- next`. -/
def WordOrder (i : Instr) (o : MemOp) (s : State) : Prop :=
  ∃ k, exec i s = outcome (wordMeaning i o k s) ∧ ∀ x, ∃ t inhibit, k x = retire i s t inhibit

theorem wordOrder_load {k : Word × State → Res State} (hreads : readsOperand i = true)
    (hstores : storesOperand 0 i = false) (harm : exec i s = outcome (loadWord o s >>= k))
    (hend : ∀ x, ∃ t b, k x = retire i s t b) : WordOrder i o s := by
  refine ⟨k, harm.trans (congrArg outcome ?_), hend⟩
  simp only [loadWord, wordMeaning, readWordIf, storeWordIf, bind_assoc, hreads, hstores, if_true, Bool.false_eq_true,
    if_false]
  rfl

theorem wordOrder_store {v : Word} {k : State → Res State} (hreads : readsOperand i = false)
    (hstores : storesOperand 0 i = true) (hword : storedWord s 0 i = v)
    (harm : exec i s = outcome (storeWord (nextPc i s) o v s >>= k)) (hend : ∀ u, ∃ t b, k u = retire i s t b) :
    WordOrder i o s := by
  refine ⟨fun x => k x.2, harm.trans (congrArg outcome ?_), fun _ => hend _⟩
  simp only [storeWord, wordMeaning, readWordIf, storeWordIf, bind_assoc, hreads, hstores, if_true, Bool.false_eq_true,
    if_false, ← hword]
  rfl

theorem wordOrder_modify {f : Word → Word} {k : State → Res State} (hreads : readsOperand i = true)
    (hstores : storesOperand 0 i = true) (hword : ∀ v, storedWord s v i = f v)
    (harm : exec i s = outcome (modifyWord (nextPc i s) o f s >>= k)) (hend : ∀ u, ∃ t b, k u = retire i s t b) :
    WordOrder i o s := by
  refine ⟨fun x => k x.2, harm.trans (congrArg outcome ?_), fun _ => hend _⟩
  simp only [modifyWord, wordMeaning, readWordIf, storeWordIf, bind_assoc, hreads, hstores, if_true, hword]

theorem wordOrder_of_wordOperand (h : wordOperand i = some o) : WordOrder i o s := by
  cases i with
  | movwMI m d => cases h; exact wordOrder_store rfl rfl rfl rfl (fun _ => ⟨_, _, rfl⟩)
  | movwAxM m => cases h; exact wordOrder_load rfl rfl rfl (fun _ => ⟨_, _, rfl⟩)
  | movwMAx m => cases h; exact wordOrder_store rfl rfl rfl rfl (fun _ => ⟨_, _, rfl⟩)
  | movwRM rp m => cases h; exact wordOrder_load rfl rfl rfl (fun _ => ⟨_, _, rfl⟩)
  | addw p =>
    cases p with
    | imm w => cases h
    | reg rp => cases h
    | mem m => cases h; exact wordOrder_load rfl rfl rfl (fun _ => ⟨_, _, rfl⟩)
  | subw p =>
    cases p with
    | imm w => cases h
    | reg rp => cases h
    | mem m => cases h; exact wordOrder_load rfl rfl rfl (fun _ => ⟨_, _, rfl⟩)
  | cmpw p =>
    cases p with
    | imm w => cases h
    | reg rp => cases h
    | mem m => cases h; exact wordOrder_load rfl rfl rfl (fun _ => ⟨_, _, rfl⟩)
  | incwM m => cases h; exact wordOrder_modify rfl rfl (fun _ => rfl) rfl (fun _ => ⟨_, _, rfl⟩)
  | decwM m => cases h; exact wordOrder_modify rfl rfl (fun _ => rfl) rfl (fun _ => ⟨_, _, rfl⟩)
  | _ => cases h

end

end Sys2Proof.Laws.OperandOrder
end

section

/-! # Where an instruction stops (`60_exceptions.md` R360, R363)

The fault of the operand's address, of its read, of its store, and of the end of the instruction, in that order; the stack
area; and control flow between the fetch regions. -/

namespace Sys2Proof.Laws.Faults
open Sys2Proof.Machine Sys2Proof.Laws.Completion Sys2Proof.Laws.CallReturn Sys2Proof.Laws.PushPop
  Sys2Proof.Laws.BitsBranches Sys2Proof.Laws.OperandOrder Sys2Proof.Laws.Exceptions

set_option Elab.async false

section
variable {i : Instr} {o : MemOp} {s u t : State} {a : Nat} {f : Fault}

/-! ### Byte operands -/

theorem exec_byteAddr_error (h : byteOperand i = some o) (ha : byteAddr s o = .error f) : exec i s = .fault f := by
  obtain ⟨w, k, harm, -⟩ := byteOrder_of_byteOperand (s := s) h
  rw [harm, outcome_eq_fault]
  exact bind_error.mpr (.inl ha)

theorem exec_byteRead_error (h : byteOperand i = some o) (ha : byteAddr s o = .ok a) (hreads : readsOperand i = true)
    (hfails : ByteReadFails s a f) : exec i s = .fault f := by
  obtain ⟨w, k, harm, -⟩ := byteOrder_of_byteOperand (s := s) h
  have hread : readIf (readsOperand i) a s = .error f := by rw [readIf, if_pos hreads, read8_error.mpr hfails]
  rw [harm, outcome_eq_fault]
  exact bind_error.mpr (.inr ⟨a, ha, bind_error.mpr (.inl hread)⟩)

/-- What is left of the instruction after its read. -/
theorem byteMeaning_of_read {w : Byte → Byte} {k : Byte × State → Res State} {v : Byte} (ha : byteAddr s o = .ok a)
    (hread : readIf (readsOperand i) a s = .ok (v, u)) :
    byteMeaning i o w k s = storeIf (storesOperand v i) (nextPc i s) a (w v) u >>= fun t => k (v, t) := by
  rw [byteMeaning, ha]
  change (readIf (readsOperand i) a s >>= _) = _
  rw [hread]
  rfl

/-- What is left of it when it is about to store. -/
theorem byteMeaning_store {w : Byte → Byte} {k : Byte × State → Res State} (ha : byteAddr s o = .ok a)
    (h : AboutToStore i s a u) :
    ∃ v, byteMeaning i o w k s = store8 (nextPc i s) a (w v) u >>= fun t => k (v, t) := by
  cases h with
  | atOnce stores noRead =>
    have hread : readIf (readsOperand i) a s = .ok (0, s) := by rw [readIf, noRead, if_neg Bool.false_ne_true]
    have hstore : storeIf (storesOperand 0 i) (nextPc i s) a (w 0) s = store8 (nextPc i s) a (w 0) s := if_pos stores
    exact ⟨0, by rw [byteMeaning_of_read ha hread, hstore]⟩
  | @afterRead v u reads read stores =>
    have hread : readIf (readsOperand i) a s = .ok (v, u) := by rw [readIf, if_pos reads, read8_iff.mpr read]
    have hstore : storeIf (storesOperand v i) (nextPc i s) a (w v) u = store8 (nextPc i s) a (w v) u := if_pos stores
    exact ⟨v, by rw [byteMeaning_of_read ha hread, hstore]⟩

theorem exec_store8_error (h : byteOperand i = some o) (ha : byteAddr s o = .ok a) (hstore : AboutToStore i s a u)
    (hfails : ∀ v, store8 (nextPc i s) a v u = .error f) : exec i s = .fault f := by
  obtain ⟨w, k, harm, -⟩ := byteOrder_of_byteOperand (s := s) h
  obtain ⟨v, hmeaning⟩ := byteMeaning_store (w := w) (k := k) ha hstore
  rw [harm, hmeaning, hfails]
  rfl

/-- Whether a byte can be written does not depend on its value. -/
theorem byteWritten_any {v : Byte} (h : ByteWritten u a v t) (w : Byte) : ∃ t, ByteWritten u a w t := by
  cases hw : write8 a w u with
  | ok t => exact ⟨t, write8_iff.mp hw⟩
  | error f =>
    have herror := write8_error (v := v).mpr (write8_error.mp hw)
    rw [write8_iff.mpr h] at herror
    cases herror

theorem aboutToStore_product (h : AboutToStore i s a u) : u.product = s.product := by
  cases h with
  | atOnce => rfl
  | afterRead _ read => exact byteRead_product read

theorem stale_of_not_fresh (hproduct : u.product = s.product) (h : ¬ fresh i s [a]) : stale u (nextPc i s) a = true := by
  rw [stale_congr hproduct]
  simpa [fresh] using h

/-! ### Word operands -/

theorem exec_wordAddr_error (h : wordOperand i = some o) (ha : wordAddr s o = .error f) : exec i s = .fault f := by
  obtain ⟨k, harm, -⟩ := wordOrder_of_wordOperand (s := s) h
  rw [harm, outcome_eq_fault]
  exact bind_error.mpr (.inl ha)

theorem exec_wordRead_error (h : wordOperand i = some o) (ha : wordAddr s o = .ok a) (hreads : readsOperand i = true)
    (hfails : WordReadFails s a f) : exec i s = .fault f := by
  obtain ⟨k, harm, -⟩ := wordOrder_of_wordOperand (s := s) h
  have hread : readWordIf (readsOperand i) a s = .error f := by
    rw [readWordIf, if_pos hreads, read16_error.mpr hfails]
  rw [harm, outcome_eq_fault]
  exact bind_error.mpr (.inr ⟨a, ha, bind_error.mpr (.inl hread)⟩)

theorem wordMeaning_of_read {k : Word × State → Res State} {v : Word} (ha : wordAddr s o = .ok a)
    (hread : readWordIf (readsOperand i) a s = .ok (v, u)) :
    wordMeaning i o k s =
      storeWordIf (storesOperand 0 i) (nextPc i s) a (storedWord s v i) u >>= fun t => k (v, t) := by
  rw [wordMeaning, ha]
  change (readWordIf (readsOperand i) a s >>= _) = _
  rw [hread]
  rfl

theorem wordMeaning_store {k : Word × State → Res State} {v : Word} (ha : wordAddr s o = .ok a)
    (h : AboutToStoreWord i s a v u) :
    ∃ x, wordMeaning i o k s = store16 (nextPc i s) a v u >>= fun t => k (x, t) := by
  cases h with
  | atOnce stores noRead =>
    have hread : readWordIf (readsOperand i) a s = .ok (0, s) := by rw [readWordIf, noRead, if_neg Bool.false_ne_true]
    have hstore : storeWordIf (storesOperand 0 i) (nextPc i s) a (storedWord s 0 i) s =
        store16 (nextPc i s) a (storedWord s 0 i) s := if_pos stores
    exact ⟨0, by rw [wordMeaning_of_read ha hread, hstore]⟩
  | @afterRead x u reads read stores =>
    have hread : readWordIf (readsOperand i) a s = .ok (x, u) := by rw [readWordIf, if_pos reads, read16_iff.mpr read]
    have hstore : storeWordIf (storesOperand 0 i) (nextPc i s) a (storedWord s x i) u =
        store16 (nextPc i s) a (storedWord s x i) u := if_pos stores
    exact ⟨x, by rw [wordMeaning_of_read ha hread, hstore]⟩

theorem exec_store16_error {v : Word} (h : wordOperand i = some o) (ha : wordAddr s o = .ok a)
    (hstore : AboutToStoreWord i s a v u) (hfails : store16 (nextPc i s) a v u = .error f) : exec i s = .fault f := by
  obtain ⟨k, harm, -⟩ := wordOrder_of_wordOperand (s := s) h
  obtain ⟨x, hmeaning⟩ := wordMeaning_store (k := k) ha hstore
  rw [harm, hmeaning, hfails]
  rfl

theorem aboutToStoreWord_product {v : Word} (h : AboutToStoreWord i s a v u) : u.product = s.product := by
  cases h with
  | atOnce => rfl
  | afterRead _ read => exact wordRead_product read

theorem stale_of_not_fresh_word (hproduct : u.product = s.product) (h : ¬ fresh i s [a, a + 1]) :
    stale u (nextPc i s) a = true ∨ stale u (nextPc i s) (a + 1) = true := by
  rw [stale_congr hproduct, stale_congr hproduct]
  by_contra hno
  simp only [not_or, Bool.not_eq_true] at hno
  exact h (by simp [fresh, hno])

/-! ### Addresses (`20_memory.md` R75, R78) -/

theorem sumAddr_overflow {es : Bool} {base off : Nat}
    (h : (if es then 0xFFFFF else 0xFFFF) < (if es then (s.es.toNat % 16) * 0x10000 else 0) + (base + off)) :
    sumAddr s es base off = .error .addressOverflow := by
  cases es with
  | false =>
    simp only [Bool.false_eq_true, if_false] at h
    rw [sumAddr, if_neg Bool.false_ne_true, if_pos (by omega)]
  | true =>
    simp only [if_true] at h
    have hupper : upper s true = s.es.toNat % 16 * 0x10000 := if_pos rfl
    have hgt : upper s true + base + off > 0xFFFFF := by omega
    rw [sumAddr, if_pos rfl, if_pos hgt]

theorem ea_overflow {es : Bool} {n : Nat} (hsum : Obligations.sumOf s o = some (es, n))
    (h : (if es then 0xFFFFF else 0xFFFF) < (if es then (s.es.toNat % 16) * 0x10000 else 0) + n) :
    ea s o = .error .addressOverflow := by
  cases o with
  | saddr => cases hsum
  | sfr => cases hsum
  | abs => cases hsum
  | de => cases hsum
  | hl => cases hsum
  | deOff => cases hsum; exact sumAddr_overflow h
  | hlOff => cases hsum; exact sumAddr_overflow h
  | spOff => cases hsum; exact sumAddr_overflow h
  | hlB => cases hsum; exact sumAddr_overflow h
  | hlC => cases hsum; exact sumAddr_overflow h
  | wordB => cases hsum; exact sumAddr_overflow h
  | wordC => cases hsum; exact sumAddr_overflow h
  | wordBC => cases hsum; exact sumAddr_overflow h

theorem byteAddr_of_ea_error (h : ea s o = .error f) : byteAddr s o = .error f := bind_error.mpr (.inl h)

theorem wordAddr_of_ea_error (h : ea s o = .error f) : wordAddr s o = .error f := bind_error.mpr (.inl h)

theorem wordAddr_misaligned (hdirect : isDirect o = false) (ha : ea s o = .ok a) (hodd : a % 2 = 1) :
    wordAddr s o = .error .misalignedWord := by
  refine bind_error.mpr (.inr ⟨a, ha, ?_⟩)
  rw [if_neg (by rw [hdirect]; decide), if_pos hodd]

/-- A direct form has an address, whatever the state, and is no stack form. -/
theorem ea_of_direct (h : isDirect o = true) (s : State) : (∃ a, ea s o = .ok a) ∧ isStack o = false := by
  cases o with
  | saddr => exact ⟨⟨_, rfl⟩, rfl⟩
  | sfr => exact ⟨⟨_, rfl⟩, rfl⟩
  | abs => exact ⟨⟨_, rfl⟩, rfl⟩
  | _ => cases h

theorem addr_of_direct (h : isDirect o = true) (ha : ea s o = .ok a) (hstack : isStack o = false) :
    byteAddr s o = .ok a ∧ wordAddr s o = .ok (a - a % 2) := by
  constructor
  · refine bind_ok.mpr ⟨a, ha, ?_⟩
    rw [hstack, Bool.false_and, if_neg Bool.false_ne_true]
  · refine bind_ok.mpr ⟨a, ha, ?_⟩
    rw [if_pos h]

/-- Settles O52: the address comes before the access, and its fault is that of the sum, then that of an odd word. -/
theorem addressFaults : Obligations.AddressFaults := by
  refine ⟨fun i o es n s hsum hover _ hi => ?_, fun i o s a hi hdirect ha hodd _ _ => ?_, fun o s h => ?_⟩
  · have hea := ea_overflow hsum hover
    obtain hbyte | ⟨hword, -⟩ := hi
    · exact exec_byteAddr_error hbyte (byteAddr_of_ea_error hea)
    · exact exec_wordAddr_error hword (wordAddr_of_ea_error hea)
  · exact exec_wordAddr_error hi (wordAddr_misaligned hdirect ha hodd)
  · obtain ⟨⟨a, ha⟩, hstack⟩ := ea_of_direct h s
    obtain ⟨hbyte, hword⟩ := addr_of_direct h ha hstack
    exact ⟨a, hbyte, hword, by omega⟩

/-! ### Accesses (`20_memory.md` R73) -/

/-- CALLT reads its table word first. -/
theorem exec_callt_error {k : BitVec 5} (h : WordReadFails s (0x80 + 2 * k.toNat) f) : exec (.callt k) s = .fault f :=
  outcome_eq_fault.mpr (bind_error.mpr (.inl (read16_error.mpr h)))

/-- BRK reads its vector first. -/
theorem exec_brk_error (h : enterException 0x7E (nextPc .brk s) s = .error f) : exec .brk s = .fault f :=
  outcome_eq_fault.mpr (bind_error.mpr (.inl (pushing_error.mpr (.inl h))))

/-- Settles O53: the read comes before the store, the store before the fetch window. -/
theorem regionFaults : Obligations.RegionFaults := by
  refine ⟨fun i o s a hi ha _ => ⟨fun f hreads hfails _ => exec_byteRead_error hi ha hreads hfails,
      fun u f hstore _ hfails => exec_store8_error hi ha hstore fun v => store8_error.mpr (.inl hfails),
      fun u t v hstore hstale hw => exec_store8_error hi ha hstore fun w => store8_error.mpr (.inr ⟨?_, ?_, rfl⟩)⟩,
    fun i o s a hi ha _ => ⟨fun f hreads hfails _ => exec_wordRead_error hi ha hreads hfails,
      fun u v f hstore _ hfails => exec_store16_error hi ha hstore (store16_error.mpr (.inl hfails)),
      fun u t v hstore hstale hw => exec_store16_error hi ha hstore (store16_error.mpr (.inr ⟨⟨t, hw⟩, ?_, rfl⟩))⟩,
    fun k s f hfails _ _ => exec_callt_error hfails,
    fun s f hfails _ _ => exec_brk_error (enterException_error.mpr (.inl hfails))⟩
  · exact byteWritten_any hw w
  · exact stale_of_not_fresh (aboutToStore_product hstore) hstale
  · exact stale_of_not_fresh_word (aboutToStoreWord_product hstore) hstale

/-! ### The stack area (`10_state.md` R34) -/

theorem stackOk_false {ks : List (BitVec 16)} (h : ∃ k ∈ ks, inStack s.product (stackAddr s k) = false) :
    stackOk s ks = false := by
  obtain ⟨k, hk, hout⟩ := h
  refine Bool.eq_false_iff.mpr fun hok => ?_
  rw [stackOk_iff.mp hok k hk] at hout
  cases hout

theorem stackOk_frame2_false (h : ∃ b ∈ frame2 s, inStack s.product b = false) : stackOk s [-1, -2] = false := by
  obtain ⟨b, hb, hout⟩ := h
  refine Bool.eq_false_iff.mpr fun hok => ?_
  rw [stackOk_frame2.mp hok b hb] at hout
  cases hout

theorem stackOk_frame4_false (h : ∃ b ∈ frame4 s, inStack s.product b = false) :
    stackOk s [-1, -2, -3, -4] = false := by
  obtain ⟨b, hb, hout⟩ := h
  refine Bool.eq_false_iff.mpr fun hok => ?_
  rw [stackOk_frame4.mp hok b hb] at hout
  cases hout

/-- `harm` is the meaning of a push of two bytes. -/
theorem exec_push2_error {next : Addr} {lo hi : Byte} {k : State → Res State}
    (harm : exec i s = outcome (pushing next [-1, -2] (push2 lo hi) s >>= k)) (hout : stackOk s [-1, -2] = false) :
    exec i s = .fault .stackOutsideRam := by
  rw [harm, outcome_eq_fault]
  exact bind_error.mpr (.inl (pushing_error.mpr (.inl (push2_error.mpr ⟨hout, rfl⟩))))

theorem callTo_error {target : Addr} (hout : stackOk s [-1, -2, -3, -4] = false) :
    callTo i target s = .error .stackOutsideRam :=
  bind_error.mpr (.inl (pushing_error.mpr (.inl (push4_error.mpr ⟨hout, rfl⟩))))

theorem exec_callt_outside {k : BitVec 5} {w : Word} (hr : WordRead s (0x80 + 2 * k.toNat) w t)
    (hout : stackOk s [-1, -2, -3, -4] = false) : exec (.callt k) s = .fault .stackOutsideRam := by
  refine outcome_eq_fault.mpr (bind_error.mpr (.inr ⟨(w, t), read16_iff.mpr hr, callTo_error ?_⟩))
  rw [stackOk_after_read hr, hout]

theorem exec_pop_error (hi : i = .popPsw ∨ ∃ rp, i = .popR rp) (hout : stackOk s [0, 1] = false) :
    exec i s = .fault .stackOutsideRam := by
  have hnot : ¬ stackOk s [0, 1] = true := by rw [hout]; decide
  obtain rfl | ⟨rp, rfl⟩ := hi
  · exact outcome_eq_fault.mpr (if_neg hnot)
  · exact outcome_eq_fault.mpr (if_neg hnot)

theorem exec_ret_error (hout : stackOk s [0, 1, 2] = false) : exec .ret s = .fault .stackOutsideRam :=
  outcome_eq_fault.mpr (if_neg (by rw [hout]; decide))

theorem returnFromException_error (hout : stackOk s [0, 1, 2, 3] = false) :
    returnFromException s = .error .stackOutsideRam := if_neg (by rw [hout]; decide)

theorem ea_spOff {off : Byte} (h : s.sp.toNat + off.toNat ≤ 0xFFFF) :
    ea s (.spOff off) = .ok (0xF0000 + (s.sp.toNat + off.toNat)) := by
  change sumAddr s false _ _ = _
  rw [sumAddr, if_neg Bool.false_ne_true, if_neg (by omega)]

theorem byteAddr_spOff_error {off : Byte} (h : s.sp.toNat + off.toNat ≤ 0xFFFF)
    (hout : inStack s.product (0xF0000 + (s.sp.toNat + off.toNat)) = false) :
    byteAddr s (.spOff off) = .error .stackOutsideRam := by
  refine bind_error.mpr (.inr ⟨_, ea_spOff h, ?_⟩)
  rw [hout]
  rfl

theorem wordAddr_spOff_error {off : Byte} (h : s.sp.toNat + off.toNat ≤ 0xFFFF)
    (heven : (s.sp.toNat + off.toNat) % 2 = 0)
    (hout : inStack s.product (0xF0000 + (s.sp.toNat + off.toNat)) = false ∨
      inStack s.product (0xF0000 + (s.sp.toNat + off.toNat) + 1) = false) :
    wordAddr s (.spOff off) = .error .stackOutsideRam := by
  have hboth : (inStack s.product (0xF0000 + (s.sp.toNat + off.toNat)) &&
      inStack s.product (0xF0000 + (s.sp.toNat + off.toNat) + 1)) = false := by
    rw [Bool.and_eq_false_iff]
    exact hout
  refine bind_error.mpr (.inr ⟨_, ea_spOff h, ?_⟩)
  have hdirect : ¬ isDirect (.spOff off) = true := Bool.false_ne_true
  rw [if_neg hdirect, if_neg (by omega), hboth]
  rfl

/-- Settles O51: the range check of each frame, and of each operand [SP+byte]. -/
theorem stackOutsideRamStops : Obligations.StackOutsideRamStops := by
  refine ⟨fun i s hi _ _ hout => ?_, fun i s hi _ hout => ?_, fun s t q c rest w hreset hpick hc hr hout => ?_,
    fun i s hi _ hout => exec_pop_error hi (stackOk_false hout), fun s hout => exec_ret_error (stackOk_false hout),
    fun s hout => ?_, fun i off s hi _ hle hout => exec_byteAddr_error hi (byteAddr_spOff_error hle hout),
    fun i off s hi _ hle heven hout => exec_wordAddr_error hi (wordAddr_spOff_error hle heven hout)⟩
  · have hframe := stackOk_frame2_false hout
    obtain rfl | ⟨rp, rfl⟩ := hi
    · exact exec_push2_error rfl hframe
    · exact exec_push2_error rfl hframe
  · have hframe := stackOk_frame4_false hout
    obtain ⟨rp, rfl⟩ | ⟨w, rfl⟩ | ⟨a, rfl⟩ | ⟨d, rfl, -⟩ | ⟨k, w, t, rfl, hr⟩ | ⟨w, t, rfl, hr⟩ := hi
    · exact outcome_eq_fault.mpr (callTo_error hframe)
    · exact outcome_eq_fault.mpr (callTo_error hframe)
    · exact outcome_eq_fault.mpr (callTo_error hframe)
    · exact outcome_eq_fault.mpr (bind_error.mpr (.inl (callTo_error hframe)))
    · exact exec_callt_outside hr hframe
    · exact exec_brk_error (enterException_error.mpr (.inr ⟨⟨w, t, hr⟩, hframe, rfl⟩))
  · rw [step, stepWith_accept hreset hpick, outcome_eq_fault]
    refine bind_error.mpr (.inl (enterException_error.mpr (.inr ⟨⟨w, t, ?_⟩, stackOk_frame4_false hout, rfl⟩)))
    rw [vector_of_source hc]
    exact hr
  · have herror := returnFromException_error (stackOk_false hout)
    exact ⟨outcome_eq_fault.mpr herror, outcome_eq_fault.mpr herror⟩

end

end Sys2Proof.Laws.Faults
end

section

/-! # Control flow between the fetch regions (`20_memory.md` R76, R77, `47_branch_skip.md` R334)

A sequential instruction whose accesses succeed comes to its end, and that end is the only thing that can stop it. -/

namespace Sys2Proof.Laws.FetchRegions
open Sys2Proof.Machine Sys2Proof.Laws.Completion Sys2Proof.Laws.CallReturn Sys2Proof.Laws.PushPop
  Sys2Proof.Laws.BitsBranches Sys2Proof.Laws.OperandOrder Sys2Proof.Laws.Faults

set_option Elab.async false

section
variable {i : Instr} {o : MemOp} {s u t : State}

/-- The instruction comes to its end. -/
def Ends (i : Instr) (s : State) : Prop := ∃ t inhibit, exec i s = outcome (retire i s t inhibit)

/-! ### Instructions whose accesses succeed -/

theorem ends_of_byteOperand (hseq : sequential i = true) (ho : byteOperand i = some o) (h : AccessesSucceed i s) :
    Ends i s := by
  obtain ⟨w, k, harm, hend⟩ := byteOrder_of_byteOperand (s := s) ho
  obtain ⟨a, ha, hread, hstore⟩ := h.byte o ho
  have hafter : ∃ v u, readIf (readsOperand i) a s = .ok (v, u) ∧ u.product = s.product ∧
      (storesOperand v i = true → AboutToStore i s a u) := by
    cases hreads : readsOperand i with
    | false => exact ⟨0, s, rfl, rfl, fun hstores => .atOnce hstores hreads⟩
    | true =>
      obtain ⟨v, u, hr⟩ := hread hreads
      exact ⟨v, u, read8_iff.mpr hr, byteRead_product hr, fun hstores => .afterRead hreads hr hstores⟩
  obtain ⟨v, u, hok, hproduct, habout⟩ := hafter
  have hleft : ∃ x, byteMeaning i o w k s = k x := by
    rw [byteMeaning_of_read ha hok]
    cases hstores : storesOperand v i with
    | false => exact ⟨(v, u), rfl⟩
    | true =>
      obtain ⟨hfresh, hwritten⟩ := hstore u (habout hstores)
      obtain ⟨t, hw⟩ := hwritten (w v)
      have hstored := store8_iff.mpr ⟨stale_after_read hproduct hfresh (List.mem_singleton_self a), hw⟩
      exact ⟨(v, t), by rw [storeIf, if_pos rfl, hstored]; rfl⟩
  obtain ⟨x, hx⟩ := hleft
  obtain ⟨t, b, hretire⟩ := hend hseq x
  exact ⟨t, b, by rw [harm, hx, hretire]⟩

theorem ends_of_wordOperand (ho : wordOperand i = some o) (h : AccessesSucceed i s) : Ends i s := by
  obtain ⟨k, harm, hend⟩ := wordOrder_of_wordOperand (s := s) ho
  obtain ⟨a, ha, hread, hstore⟩ := h.word o ho
  have hafter : ∃ v u, readWordIf (readsOperand i) a s = .ok (v, u) ∧ u.product = s.product ∧
      (storesOperand 0 i = true → AboutToStoreWord i s a (storedWord s v i) u) := by
    cases hreads : readsOperand i with
    | false => exact ⟨0, s, rfl, rfl, fun hstores => .atOnce hstores hreads⟩
    | true =>
      obtain ⟨v, u, hr⟩ := hread hreads
      exact ⟨v, u, read16_iff.mpr hr, wordRead_product hr, fun hstores => .afterRead hreads hr hstores⟩
  obtain ⟨v, u, hok, hproduct, habout⟩ := hafter
  have hleft : ∃ x, wordMeaning i o k s = k x := by
    rw [wordMeaning_of_read ha hok]
    cases hstores : storesOperand 0 i with
    | false => exact ⟨(v, u), rfl⟩
    | true =>
      obtain ⟨hfresh, t, hw⟩ := hstore _ u (habout hstores)
      have hlow := stale_after_read (a := a) hproduct hfresh (by simp)
      have hhigh := stale_after_read (a := a + 1) hproduct hfresh (by simp)
      exact ⟨(v, t), by rw [storeWordIf, if_pos rfl, store16_iff.mpr ⟨⟨hlow, hhigh⟩, hw⟩]; rfl⟩
  obtain ⟨x, hx⟩ := hleft
  obtain ⟨t, b, hretire⟩ := hend x
  exact ⟨t, b, by rw [harm, hx, hretire]⟩

theorem ends_of_push (hi : i = .pushPsw ∨ ∃ rp, i = .pushR rp) (h : AccessesSucceed i s) : Ends i s := by
  obtain ⟨hfresh, hin⟩ := h.push hi
  have hpush : ∀ lo hi, pushing (nextPc i s) [-1, -2] (push2 lo hi) s = .ok (pushed2 s lo hi) := fun lo hi =>
    pushing_push2 lo hi hin hfresh
  obtain rfl | ⟨rp, rfl⟩ := hi
  · exact ⟨_, _, congrArg (fun r => outcome (r >>= fun t => retire .pushPsw s t false)) (hpush _ _)⟩
  · exact ⟨_, _, congrArg (fun r => outcome (r >>= fun t => retire (.pushR rp) s t false)) (hpush _ _)⟩

theorem ends_of_pop (hi : i = .popPsw ∨ ∃ rp, i = .popR rp) (h : AccessesSucceed i s) : Ends i s := by
  obtain ⟨h0, l, hl⟩ := h.pop hi 0 (by simp)
  obtain ⟨h1, b, hb⟩ := h.pop hi 1 (by simp)
  obtain rfl | ⟨rp, rfl⟩ := hi
  · refine ⟨{ s with sp := s.sp + 2, psw := b }, true, ?_⟩
    change execPopPsw s = _
    rw [execPopPsw, if_pos (stackOk_pop h0 h1), popByte_iff.mpr hb]
    rfl
  · refine ⟨{ s with sp := s.sp + 2 }.setR16 s.bank rp (word l b), false, ?_⟩
    change execPopR rp s = _
    rw [execPopR, if_pos (stackOk_pop h0 h1), popByte_iff.mpr hl, popByte_iff.mpr hb]
    rfl

/-! ### Instructions without an operand in memory -/

theorem ends_of_alu {f : Byte → Byte → Byte → Byte × Byte} {writes : Bool} {p : AluOp} (hp : aluMemOp p = none)
    (harm : exec i s = outcome (execAlu i f writes p s)) : Ends i s := by
  cases p with
  | aImm d => exact ⟨_, _, harm⟩
  | aReg r => exact ⟨_, _, harm⟩
  | regA r => exact ⟨_, _, harm⟩
  | aMem m => cases hp
  | saddrImm off d => cases hp
  | absImm es w d => cases hp

theorem ends_of_toCy {f : Bool → Bool → Bool} {l : BitLoc} {n : BitVec 3} (hl : bitMemOp l = none)
    (harm : exec i s = outcome (execToCy i f l n s)) : Ends i s := by
  cases l with
  | a => exact ⟨_, _, harm⟩
  | mem m => cases hl

theorem ends_of_toBit {b : Bool} {l : BitLoc} {n : BitVec 3} (hl : bitMemOp l = none)
    (harm : exec i s = outcome (execToBit i b l n s)) : Ends i s := by
  cases l with
  | a => exact ⟨_, _, harm⟩
  | mem m => cases hl

/-- The source is an immediate or a pair. -/
theorem ends_of_aluW {f : Word → Word → Arith16} {writes : Bool} {p : AluWOp} (hp : ∀ m, p ≠ .mem m)
    (harm : exec i s = outcome (execAluW i f writes p s)) : Ends i s := by
  cases p with
  | imm w => exact ⟨_, _, harm⟩
  | reg rp => exact ⟨_, _, harm⟩
  | mem m => exact absurd rfl (hp m)

theorem ends_of_noOperand (hseq : sequential i = true) (hbyte : byteOperand i = none) (hword : wordOperand i = none)
    (hpush : ¬ (i = .pushPsw ∨ ∃ rp, i = .pushR rp)) (hpop : ¬ (i = .popPsw ∨ ∃ rp, i = .popR rp)) : Ends i s := by
  cases i
  case add | addc | sub | subc | and | or | xor | cmp => exact ends_of_alu hbyte rfl
  case mov1Cy | and1 | or1 | xor1 => exact ends_of_toCy hbyte rfl
  case mov1Bit | set1 | clr1 => exact ends_of_toBit hbyte rfl
  case addw | subw | cmpw =>
    refine ends_of_aluW ?_ rfl
    rintro m rfl
    cases hword
  case pushPsw => exact absurd (.inl rfl) hpush
  case pushR rp => exact absurd (.inr ⟨rp, rfl⟩) hpush
  case popPsw => exact absurd (.inl rfl) hpop
  case popR rp => exact absurd (.inr ⟨rp, rfl⟩) hpop
  case movRI | movAR | movRA | movEsI | xchAR | onebR | clrbR | movwRI | movwAxR | movwRAx | xchw | onew | clrw | cmp0R |
      addwSp | subwSp | mulu | incR | decR | incwR | decwR | shr | shrw | shl | shlw | sar | sarw | ror | rol | rorc |
      rolc | rolwc | set1Cy | clr1Cy | not1Cy | sel | nop | ei | di | halt | stop => exact ⟨_, _, rfl⟩
  case movMI | movAM | movMA | movRM | movEsSaddr | xchAM | onebM | clrbM | movs | cmp0M | cmps | incM | decM =>
    cases hbyte
  case movwMI | movwAxM | movwMAx | movwRM | incwM | decwM => cases hword
  all_goals cases hseq

theorem ends_of_accesses (hseq : sequential i = true) (h : AccessesSucceed i s) : Ends i s := by
  cases hbyte : byteOperand i with
  | some o => exact ends_of_byteOperand hseq hbyte h
  | none =>
    cases hword : wordOperand i with
    | some o => exact ends_of_wordOperand hword h
    | none =>
      by_cases hpush : i = .pushPsw ∨ ∃ rp, i = .pushR rp
      · exact ends_of_push hpush h
      · by_cases hpop : i = .popPsw ∨ ∃ rp, i = .popR rp
        · exact ends_of_pop hpop h
        · exact ends_of_noOperand hseq hbyte hword hpush hpop

/-! ### The faults of the ends -/

theorem exec_retire_error {inhibit : Bool} (harm : exec i s = outcome (retire i s t inhibit)) (hflow : ¬ flows i s) :
    exec i s = .fault .fetchProhibited := by
  rw [harm, outcome_eq_fault]
  exact retire_error.mpr ⟨hflow, rfl⟩

theorem exec_branchTo_error {target : Addr} {inhibit : Bool} (harm : exec i s = outcome (branchTo s t target inhibit))
    (hcross : crosses s.product s.pc.toNat target.toNat = true) : exec i s = .fault .crossRegionRelative := by
  rw [harm, outcome_eq_fault]
  exact branchTo_error.mpr ⟨hcross, rfl⟩

theorem exec_bt_taken {l : BitLoc} {n : BitVec 3} {d v : Byte} (h : BitByte l s t v) (hbit : v.getLsbD n.toNat = true) :
    exec (.bt l n d) s = outcome (branchTo s t (rel8 (.bt l n d) s d) false) :=
  (outcome_loadBitByte h _).trans (congrArg outcome (if_pos hbit))

theorem exec_bt_not_taken {l : BitLoc} {n : BitVec 3} {d v : Byte} (h : BitByte l s t v)
    (hbit : v.getLsbD n.toNat = false) : exec (.bt l n d) s = outcome (retire (.bt l n d) s t false) :=
  (outcome_loadBitByte h _).trans (congrArg outcome (if_neg (by rw [hbit]; exact Bool.false_ne_true)))

theorem exec_bf_taken {l : BitLoc} {n : BitVec 3} {d v : Byte} (h : BitByte l s t v) (hbit : v.getLsbD n.toNat = false) :
    exec (.bf l n d) s = outcome (branchTo s t (rel8 (.bf l n d) s d) false) :=
  (outcome_loadBitByte h _).trans (congrArg outcome (if_neg (by rw [hbit]; exact Bool.false_ne_true)))

theorem exec_bf_not_taken {l : BitLoc} {n : BitVec 3} {d v : Byte} (h : BitByte l s t v)
    (hbit : v.getLsbD n.toNat = true) : exec (.bf l n d) s = outcome (retire (.bf l n d) s t false) :=
  (outcome_loadBitByte h _).trans (congrArg outcome (if_pos hbit))

/-- The store of BTCLR succeeds where the byte is A, or where its operand can be written. -/
theorem clearBit_ok {l : BitLoc} {n : BitVec 3} {v : Byte} (h : BitByte l s t v)
    (hstore : ∀ m a, l = .mem m → byteAddr s m = .ok a →
      fresh i s [a] ∧ ∃ u, ByteWritten t a (setBit8 v n.toNat false) u) :
    ∃ u, clearBit (nextPc i s) l n v s t = .ok u := by
  obtain ⟨rfl, -, -⟩ | ⟨m, a, rfl, ha, hr⟩ := h
  · exact ⟨_, rfl⟩
  · obtain ⟨hfresh, u, hw⟩ := hstore m a rfl ha
    exact ⟨u, clearBit_mem ha hr hfresh hw⟩

/-- A taken skip stops where its target lies in another region. -/
theorem skipIf_crosses {j : Instr} {n : Nat} (hflow : flows i s) (hfetch : fetchAt s (nextPc i s).toNat = .ok (j, n))
    (hj : j ≠ .prefixAlone)
    (hcross : crosses s.product s.pc.toNat (nextPc i s + BitVec.ofNat 20 n).toNat = true) :
    skipIf i true s = .error .fetchProhibited := by
  rw [skipIf, if_pos rfl, if_neg (by rw [hflow]; exact Bool.false_ne_true), hfetch]
  change (if j = .prefixAlone then _ else _) = _
  rw [if_neg hj]
  exact if_pos hcross

theorem skipIf_not_flows {c : Bool} (hflow : ¬ flows i s) : skipIf i c s = .error .fetchProhibited := by
  cases c with
  | false => exact retire_error.mpr ⟨hflow, rfl⟩
  | true => exact if_pos (by simpa [flows] using hflow)

/-- Settles O54: the ends of branches, of sequential instructions and of skips, and the fetch. -/
theorem fetchRegionFaults : Obligations.FetchRegionFaults := by
  refine ⟨fun i d s hi hcross => ?_, fun d s hcross => ⟨exec_branchTo_error rfl hcross, fun hfresh hin =>
      exec_branchTo_error (exec_callRel hin hfresh) hcross⟩, fun i l n d s t v hbyte hi hcross => ?_,
    fun i s t => Completed.flows_of_sequential, fun i s hseq haccess hflow => ?_, fun i d s hi hflow => ?_,
    fun i l n d s t v hbyte hi hflow => ?_, fun i c s hi => ?_, fun s hreset hmode hpick hnone => ?_⟩
  · obtain rfl | hcond := hi
    · exact exec_branchTo_error rfl hcross
    · exact exec_branchTo_error (exec_condition hcond) hcross
  · obtain ⟨rfl, hbit⟩ | ⟨rfl, hbit⟩ | ⟨rfl, hbit, hstore⟩ := hi
    · exact exec_branchTo_error (exec_bt_taken hbyte hbit) hcross
    · exact exec_branchTo_error (exec_bf_taken hbyte hbit) hcross
    · obtain ⟨u, hclear⟩ := clearBit_ok hbyte hstore
      exact exec_branchTo_error (exec_btclr_clear hbyte hbit hclear) hcross
  · obtain ⟨t, b, harm⟩ := ends_of_accesses hseq haccess
    exact exec_retire_error harm hflow
  · exact exec_retire_error (exec_condition hi) hflow
  · obtain ⟨rfl, hbit⟩ | ⟨rfl, hbit⟩ | ⟨rfl, hbit⟩ := hi
    · exact exec_retire_error (exec_bt_not_taken hbyte hbit) hflow
    · exact exec_retire_error (exec_bf_not_taken hbyte hbit) hflow
    · exact exec_retire_error (exec_btclr_keep hbyte hbit) hflow
  · obtain ⟨harm, hnext⟩ := exec_skip hi
    rw [← hnext, harm]
    simp only [outcome_eq_fault]
    refine ⟨skipIf_not_flows, fun f hflow hc hfetch => ?_, fun j n hflow hc hfetch hj hcross => ?_⟩
    · rw [hc]
      exact skipIf_fetch_error hflow hfetch
    · rw [hc]
      exact skipIf_crosses hflow hfetch hj hcross
  · have hfetch : fetchAt s s.pc.toNat = .error .fetchProhibited := by rw [fetchAt, hnone]
    rw [step, stepWith_run hreset hpick hmode, runInstr, hfetch]

end

end Sys2Proof.Laws.FetchRegions
end
